-- ==== Sys2Proof/Word.lean ====
section
/-! DEFINITION. Word.lean: the bit vectors the spec names, all unsigned, bit 0 least significant (R9). -/

namespace Sys2Proof

/-- One of the two words of an identifier, an operand or an output of 64 bits (R7 `W_WORD`). -/
abbrev Word := BitVec 64

/-- A version nibble or an observed version (R7 `W_VERSION`). -/
abbrev Nibble := BitVec 4

/-- The timestamp counter, counting 100 ns ticks (R18). -/
abbrev Counter := BitVec 60

/-- The operation select (R8 `W_OP`). -/
abbrev OpSel := BitVec 2

/-- The status output (R8 `W_STATUS`). -/
abbrev Status := BitVec 2

/-- A command written as one word (R43). -/
abbrev CommandWord := BitVec 130

/-- A response written as one word (R44). -/
abbrev ResponseWord := BitVec 194

end Sys2Proof
end

