-- ==== Sys2Proof/Machine/Layout.lean ====
section
/-! DEFINITION. Machine/Layout.lean: the data model. An identifier and its value (R14, R31), the version nibble (R20),
the timestamp counter and its parts (R18, R19), the fields of `low` (R17), and the groups of the canonical text (R32).
Only the version nibble is read by an operation; the rest states what an identifier means. -/

namespace Sys2Proof.Machine

/-- An identifier: two unsigned words, a value and never a stored object (R14). -/
structure Identifier where
  high : Word
  low : Word
deriving DecidableEq, Repr

/-- `high ‖ low`, the 128-bit value (R31). -/
def identifierBits (x : Identifier) : BitVec 128 := x.high ++ x.low

/-- `Value128(high, low) = high × 2^64 + low`, compared as an unsigned integer (R31). -/
def value128 (x : Identifier) : Nat := x.high.toNat * 2 ^ 64 + x.low.toNat

/-- `high[15:12]`, at the same place in both layouts (R15, R16, R20). -/
def versionNibble (h : Word) : Nibble := h.extractLsb' 12 4

/-- A version-1 word: a `high` whose version nibble is 1 (43_properties.md, notation). -/
abbrev VersionOne (h : Word) : Prop := versionNibble h = 1#4

/-- `time_hi = c[59:48]` (R18). -/
def counterTimeHi (c : Counter) : BitVec 12 := c.extractLsb' 48 12

/-- `time_mid = c[47:32]` (R18). -/
def counterTimeMid (c : Counter) : BitVec 16 := c.extractLsb' 32 16

/-- `time_low = c[31:0]` (R18). -/
def counterTimeLow (c : Counter) : BitVec 32 := c.extractLsb' 0 32

/-- `CounterStd(h) = h[11:0] ‖ h[31:16] ‖ h[63:32]`: the counter of a standard-layout word (R19). -/
def counterStd (h : Word) : Counter := h.extractLsb' 0 12 ++ h.extractLsb' 16 16 ++ h.extractLsb' 32 32

/-- `CounterSrt(h) = h[63:52] ‖ h[51:36] ‖ h[35:16] ‖ h[11:0]`: the counter of a sortable-layout word (R19). -/
def counterSrt (h : Word) : Counter :=
  h.extractLsb' 52 12 ++ h.extractLsb' 36 16 ++ h.extractLsb' 16 20 ++ h.extractLsb' 0 12

/-- `low[63:56]`: clock-sequence-high and variant, the variant bit `low[63]` first (R17). -/
def clockSeqHighVariant (l : Word) : BitVec 8 := l.extractLsb' 56 8

/-- `low[55:48]`: clock-sequence-low (R17). -/
def clockSeqLow (l : Word) : BitVec 8 := l.extractLsb' 48 8

/-- `low[47:0]`: node (R17). -/
def node (l : Word) : BitVec 48 := l.extractLsb' 0 48

/-- The five groups, 8-4-4-4-12 hexadecimal digits, in which the spec writes an identifier (R32). Parsing and printing
them is outside the block (R6); this says only which bits each group holds. -/
structure TextGroups where
  group1 : BitVec 32
  group2 : BitVec 16
  group3 : BitVec 16
  group4 : BitVec 16
  group5 : BitVec 48
deriving DecidableEq, Repr

/-- The 32 digits, left to right, are `Value128` from its most significant digit down (R32). -/
def textGroups (x : Identifier) : TextGroups where
  group1 := (identifierBits x).extractLsb' 96 32
  group2 := (identifierBits x).extractLsb' 80 16
  group3 := (identifierBits x).extractLsb' 64 16
  group4 := (identifierBits x).extractLsb' 48 16
  group5 := (identifierBits x).extractLsb' 0 48

end Sys2Proof.Machine
end

