-- ==== Sys2Proof/Machine/Operands.lean ====
section
/-! DEFINITION. Machine/Operands.lean: the operand forms (R41, R42) and the limits the checks read. No operand is
assembled from scattered bits, scaled, shifted or sign-extended: each is a whole port value, read unsigned (R42). -/

namespace Sys2Proof.Machine

/-- The identifier operand of TOSORTABLE, TOSTANDARD and VGUARD: `(high, low) = (a, b)` (R41, R42). -/
def identifierOperand (a b : Word) : Identifier := ⟨a, b⟩

/-- The tick operand of LOWESTBOUND: `T = a`, all 64 bits of it (R42). -/
def tickOperand (a : Word) : Word := a

/-- `REQUIRED_VERSION`: the only accepted version (R7). -/
def requiredVersion : Nibble := 1#4

/-- `MAX_COUNTER = 2^60 − 1`, the largest valid tick count (R7, R69). -/
def maxCounter : Word := 0x0FFFFFFFFFFFFFFF#64

/-- `VARIANT_LOW`: the `low` word of every LOWESTBOUND result (R7). -/
def variantLow : Word := 0x8000000000000000#64

end Sys2Proof.Machine
end

