-- ==== Sys2Proof/Machine/State.lean ====
section
/-! DEFINITION. Machine/State.lean: the three input ports of the block (R22), what a response is (R44), the reasons a step
can stop (there are none of the block's own), and the machine at power-up. The block has NO architectural state (R13):
State holds no bit of the block's, only the command the host holds on the inputs, because the host's interface asks for a
step on a state (log entry 1). The four outputs are not stored (R25): they are a function of the inputs at every moment
(R29), `State.response` in Machine/Outputs.lean. -/

namespace Sys2Proof.Machine

/-- The command the host holds on the block's input ports. -/
structure State where
  /-- input `op`: operation select (R22). -/
  op : OpSel
  /-- input `a`: first operand (R22). -/
  a : Word
  /-- input `b`: second operand (R22). -/
  b : Word
deriving DecidableEq, Repr

/-- A response: the values of the four output ports (R28, R44), a value and nothing the block stores. -/
structure Response where
  status : Status
  outHigh : Word
  outLow : Word
  errInfo : Word
deriving DecidableEq, Repr

/-- Reasons for the machine to stop with a fault: NONE, so nobody raises one (safe: nothing is cut short). "No command
hangs, none is stuck, none is refused" (R70); the two failure kinds of R83 are responses, not stops (R86). -/
inductive Fault where
deriving DecidableEq, Repr

/-- Reasons for an instruction to be refused. -/
inductive Refusal where
  /-- The host's word for an instruction without a meaning. Raised by no arm of `exec`: every command has its meaning
  (R70). Safe: a refusal would only stop a run. -/
  | notModelled (mnemonic : String)
deriving DecidableEq, Repr

/-- The machine at power-up. The block has no reset and nothing to initialise (R29, R93). The inputs are what the host
drives, which the spec does not say; DESIGN CHOICE: all zero (log entry 2). The outputs are, as always, the function of
the inputs (R29). -/
def State.reset : State where
  op := 0#2
  a := 0#64
  b := 0#64

end Sys2Proof.Machine
end

