-- ==== Sys2Proof/Machine/Flags.lean ====
section
/-! DEFINITION. Machine/Flags.lean: status and payload. The block stores no flag (R25); the nearest thing is the `status`
output, a function of the current command. Here stands the result of an operation (R12), how it is laid on the four
outputs (R45, R46, R47), how a response is read back, and the response as one word (R44). -/

namespace Sys2Proof.Machine

/-- The result of an operation: a success with an identifier, or one of exactly two failure kinds (R12, R83). -/
inductive Result where
  /-- `Ok(h, l)`: the words of the result identifier. -/
  | ok (high low : Word)
  /-- `InvalidVersion(v)`: the observed version is not 1 (R84). -/
  | invalidVersion (observed : Nibble)
  /-- `OutOfRange(t)`: the tick count exceeds `MAX_COUNTER` (R85). -/
  | outOfRange (offending : Word)
deriving DecidableEq, Repr

/-- The side conditions of the tagged union: `observed ≠ 1`, `offending > MAX_COUNTER` (R12). -/
def resultWellFormed : Result → Bool
  | .ok _ _ => true
  | .invalidVersion v => decide (v ≠ requiredVersion)
  | .outOfRange t => decide (t > maxCounter)

/-- `ST_OK` (R46). -/
def stOk : Status := 0#2

/-- `ST_INVALID_VERSION` (R46). -/
def stInvalidVersion : Status := 1#2

/-- `ST_OUT_OF_RANGE` (R46). -/
def stOutOfRange : Status := 2#2

/-- The status code of a result (R46). -/
def statusOf : Result → Status
  | .ok _ _ => stOk
  | .invalidVersion _ => stInvalidVersion
  | .outOfRange _ => stOutOfRange

/-- The value on `err_info`: zero on success, else the failure's payload (R45, R47). -/
def payloadOf : Result → Word
  | .ok _ _ => 0#64
  | .invalidVersion v => v.setWidth 64
  | .outOfRange t => t

/-- The value on `out_high`: zero on failure, "No partial results" (R45). -/
def highOf : Result → Word
  | .ok h _ => h
  | .invalidVersion _ => 0#64
  | .outOfRange _ => 0#64

/-- The value on `out_low`: zero on failure (R45). -/
def lowOf : Result → Word
  | .ok _ l => l
  | .invalidVersion _ => 0#64
  | .outOfRange _ => 0#64

/-- The port encoding of a result (R45). -/
def responseOf (r : Result) : Response where
  status := statusOf r
  outHigh := highOf r
  outLow := lowOf r
  errInfo := payloadOf r

/-- The result a host reads from a response, `status` first (R45). It answers nothing for a status of 3, which the block
never produces (R46). -/
def resultRead (r : Response) : Option Result :=
  if r.status = stOk then some (.ok r.outHigh r.outLow)
  else if r.status = stInvalidVersion then some (.invalidVersion (r.errInfo.setWidth 4))
  else if r.status = stOutOfRange then some (.outOfRange r.errInfo)
  else none

/-- `RSP[193:0] = status ‖ out_high ‖ out_low ‖ err_info` (R44). -/
def responseWord (r : Response) : ResponseWord := r.status ++ r.outHigh ++ r.outLow ++ r.errInfo

end Sys2Proof.Machine
end

