-- ==== Sys2Proof/Syntax.lean ====
section
/-! DEFINITION. Syntax.lean: the four commands of the block (R39, R40), one constructor per row of the operation table.
A command carries both operands, since every operation has the one format `CMD` (R39). -/

namespace Sys2Proof

/-- A command `(op, a, b)`, the constructor standing for `op` (R40). -/
inductive Instr where
  /-- `op = 0`: standard layout to sortable layout (R60); `a` is `high`, `b` is `low`. -/
  | toSortable (a b : Word)
  /-- `op = 1`: sortable layout to standard layout (R61); `a` is `high`, `b` is `low`. -/
  | toStandard (a b : Word)
  /-- `op = 2`: smallest identifier of a tick count (R66); `a` is the tick count, `b` is ignored (R49). -/
  | lowestBound (a b : Word)
  /-- `op = 3`: check the version nibble and pass the identifier through (R55); `a` is `high`, `b` is `low`. -/
  | vguard (a b : Word)
deriving DecidableEq, Repr

end Sys2Proof
end

