-- ==== Sys2Proof/WellFormed.lean ====
section
/-! DEFINITION. WellFormed.lean: what makes a command well formed. The ports are total bit vectors (R94), so a command
has nothing to check (R48); a command carried as a number must fit the 130 bits of the command word (R43, R51). -/

namespace Sys2Proof

/-- Every command is legal: "No value of `a` or `b` makes a command illegal" (R48). -/
def Instr.wellFormed : Instr → Bool
  | .toSortable _ _ => true
  | .toStandard _ _ => true
  | .lowestBound _ _ => true
  | .vguard _ _ => true

/-- A number is a command word exactly when it has no bit above bit 129 (R43, R51). -/
def commandWordFits (w : Nat) : Bool := decide (w < 2 ^ 130)

end Sys2Proof
end

