-- ==== Sys2Proof/Decode.lean ====
section
/-! DEFINITION. Decode.lean: the command word and its fields (R43), decoding, and encoding. Decoding a command word is
total, without a rejection (R48); a number too wide to be a command word is rejected by name. There is no decoder of
bytes: nothing at the boundary is a sequence of bytes and no byte order exists (R31, R43). -/

namespace Sys2Proof

/-- `OP_TOSORTABLE` (R8, R40). -/
def opToSortable : OpSel := 0#2

/-- `OP_TOSTANDARD` (R8, R40). -/
def opToStandard : OpSel := 1#2

/-- `OP_LOWESTBOUND` (R8, R40). -/
def opLowestBound : OpSel := 2#2

/-- `OP_VGUARD` (R8, R40). -/
def opVguard : OpSel := 3#2

/-- `CMD[129:0] = op[1:0] ‖ a[63:0] ‖ b[63:0]` (R43). -/
def commandWord (op : OpSel) (a b : Word) : CommandWord := op ++ a ++ b

/-- `CMD[129:128]` (R43). -/
def opField (w : CommandWord) : OpSel := w.extractLsb' 128 2

/-- `CMD[127:64]` (R43). -/
def aField (w : CommandWord) : Word := w.extractLsb' 64 64

/-- `CMD[63:0]` (R43). -/
def bField (w : CommandWord) : Word := w.extractLsb' 0 64

/-- `MASK = 0x3 << 128`, the same for all four rows (R43). -/
def rowMask : CommandWord := 3#130 <<< 128

/-- `MATCH = op << 128` (R43). -/
def rowMatch (op : OpSel) : CommandWord := op.setWidth 130 <<< 128

/-- The command of an operation select and two operands: all four values of `op` are operations (R40, R48). -/
def commandOf (op : OpSel) (a b : Word) : Instr :=
  match op with
  | 0#2 => .toSortable a b
  | 1#2 => .toStandard a b
  | 2#2 => .lowestBound a b
  | 3#2 => .vguard a b

/-- Decoding of a command word; total, since each of the 2^130 words is a command (R43, R48). -/
def decode (w : CommandWord) : Instr := commandOf (opField w) (aField w) (bField w)

/-- Why a number is no command word. -/
inductive DecodeReject where
  /-- It has a bit above bit 129: there is one command length, 130 bits (R51). -/
  | tooWide
deriving DecidableEq, Repr

/-- Decoding of a number as a command word, rejecting by name one that does not fit (R43, R51). -/
def decodeNat (w : Nat) : Except DecodeReject Instr :=
  if commandWordFits w then .ok (decode (BitVec.ofNat 130 w)) else .error .tooWide

/-- What the decoder reads from an instruction whose bits are `w`, the bits above `nbits` being zero. -/
def decodeTableWord (nbits w : Nat) : Option Instr := (decodeNat (w % 2 ^ nbits)).toOption

/-- The operation select of a command (R40). -/
def Instr.op : Instr → OpSel
  | .toSortable _ _ => opToSortable
  | .toStandard _ _ => opToStandard
  | .lowestBound _ _ => opLowestBound
  | .vguard _ _ => opVguard

/-- The first operand of a command (R41). -/
def Instr.a : Instr → Word
  | .toSortable a _ => a
  | .toStandard a _ => a
  | .lowestBound a _ => a
  | .vguard a _ => a

/-- The second operand of a command (R41). -/
def Instr.b : Instr → Word
  | .toSortable _ b => b
  | .toStandard _ b => b
  | .lowestBound _ b => b
  | .vguard _ b => b

/-- The command word of a command (R43). -/
def encode (i : Instr) : CommandWord := commandWord i.op i.a i.b

end Sys2Proof
end

