-- ==== Sys2Proof/Machine/Ops.lean ====
section
/-! DEFINITION. Machine/Ops.lean: the named operations over the input ports. Holding a command on them is all there is to
run it: the outputs follow at once (R29, Machine/Outputs.lean). A failure is no trap (R86): no state is saved, no mode
changes, no control is transferred, and there is nothing to return from (R89). The block has no memory and no registers
to read or write (R23, R30). -/

namespace Sys2Proof.Machine

/-- The block with the command `(op, a, b)` held on its inputs (R22, R95). -/
def State.hold (s : State) (op : OpSel) (a b : Word) : State := { s with op := op, a := a, b := b }

/-- The command on the inputs, as a word (R39, R43). -/
def commandOnPorts (s : State) : CommandWord := commandWord s.op s.a s.b

/-- The host drives the inputs with a command word (R39: a command "is presented by the host"). -/
def State.presentWord (s : State) (w : CommandWord) : State := s.hold (opField w) (aField w) (bField w)

/-- The host presents a command. -/
def State.present (s : State) (i : Instr) : State := s.presentWord (encode i)

end Sys2Proof.Machine
end

