-- ==== Sys2Proof/Machine/Bound.lean ====
section
/-! DEFINITION. Machine/Bound.lean: the Bound Constructor, LOWESTBOUND (R66). -/

namespace Sys2Proof.Machine

/-- The `high` word of the bound: `T[59:12] ‖ 1 ‖ T[11:0]` (R66). -/
def lowestBoundHigh (t : Word) : Word := t.extractLsb' 12 48 ++ requiredVersion ++ t.extractLsb' 0 12

/-- The same by 64-bit shifts and masks: `((T >> 12) << 16) | 0x1000 | (T & 0xFFF)` (R66). No operation reads it. -/
def lowestBoundHighShifted (t : Word) : Word := ((t >>> 12) <<< 16) ||| 0x1000#64 ||| (t &&& 0xFFF#64)

/-- The result of LOWESTBOUND: the bound, or `OutOfRange` with the tick count as presented, never clamped and never
wrapped (R66, R85). The second operand is ignored (R49). -/
def lowestBoundResult (a _b : Word) : Result :=
  let t := tickOperand a
  if t > maxCounter then .outOfRange t else .ok (lowestBoundHigh t) variantLow

/-- LOWESTBOUND (R66): the block evaluates `lowestBoundResult a b`, which its outputs show while the command is held. -/
def execLowestBound (a b : Word) (s : State) : Host.Outcome State Fault Refusal :=
  .next (s.hold opLowestBound a b)

end Sys2Proof.Machine
end

