-- ==== Sys2Proof/Machine/Guard.lean ====
section
/-! DEFINITION. Machine/Guard.lean: the Version Guard, as a function (R54) and as the operation VGUARD (R55). -/

namespace Sys2Proof.Machine

/-- What the Version Guard answers (R54). -/
inductive GuardAnswer where
  | pass
  | fail (observed : Nibble)
deriving DecidableEq, Repr

/-- `VersionGuard`: succeed only if the version nibble equals 1, else fail with the observed version (R54). -/
def versionGuard (h : Word) : GuardAnswer :=
  if versionNibble h = requiredVersion then .pass else .fail (versionNibble h)

/-- The first step of every operation on an existing identifier: run the guard and "propagate failure unchanged"
(R54, R60, R84). -/
def guarded (x : Identifier) (onPass : Result) : Result :=
  match versionGuard x.high with
  | .pass => onPass
  | .fail v => .invalidVersion v

/-- The result of VGUARD: the identifier itself, once the guard has passed (R55). -/
def vguardResult (a b : Word) : Result :=
  let x := identifierOperand a b
  guarded x (.ok x.high x.low)

/-- VGUARD (R55): the block evaluates `vguardResult a b`, which its outputs show while the command is held. -/
def execVguard (a b : Word) (s : State) : Host.Outcome State Fault Refusal :=
  .next (s.hold opVguard a b)

end Sys2Proof.Machine
end

