-- ==== Sys2Proof/Machine/Codec.lean ====
section
/-! DEFINITION. Machine/Codec.lean: the Field Codec by named fields, the form the spec calls normative (R56 to R61):
extract by one layout, assemble by the other, carry `low` through (R65). -/

namespace Sys2Proof.Machine

/-- The fields of a word read by the standard layout (R15, R56). -/
structure StdFields where
  timeLow : BitVec 32
  timeMid : BitVec 16
  version : Nibble
  timeHi : BitVec 12
deriving DecidableEq, Repr

/-- The fields of a word read by the sortable layout (R16, R57). -/
structure SrtFields where
  timeHi : BitVec 12
  timeMid : BitVec 16
  timeLowHi20 : BitVec 20
  version : Nibble
  timeLowLo12 : BitVec 12
deriving DecidableEq, Repr

/-- Extraction by the standard layout: `h[63:32]`, `h[31:16]`, `h[15:12]`, `h[11:0]` (R56). -/
def stdFields (h : Word) : StdFields where
  timeLow := h.extractLsb' 32 32
  timeMid := h.extractLsb' 16 16
  version := versionNibble h
  timeHi := h.extractLsb' 0 12

/-- Extraction by the sortable layout: `h[63:52]`, `h[51:36]`, `h[35:16]`, `h[15:12]`, `h[11:0]` (R57). -/
def srtFields (h : Word) : SrtFields where
  timeHi := h.extractLsb' 52 12
  timeMid := h.extractLsb' 36 16
  timeLowHi20 := h.extractLsb' 16 20
  version := versionNibble h
  timeLowLo12 := h.extractLsb' 0 12

/-- `time_low[31:12]` (R56). -/
def timeLowHi20 (t : BitVec 32) : BitVec 20 := t.extractLsb' 12 20

/-- `time_low[11:0]` (R56). -/
def timeLowLo12 (t : BitVec 32) : BitVec 12 := t.extractLsb' 0 12

/-- Assembly by the sortable layout, the version nibble the constant 1 (R58, 90_conflicts.md C4). -/
def asmSrt (timeHi : BitVec 12) (timeMid : BitVec 16) (timeLow : BitVec 32) : Word :=
  timeHi ++ timeMid ++ timeLowHi20 timeLow ++ requiredVersion ++ timeLowLo12 timeLow

/-- Assembly by the standard layout, the version nibble the constant 1 (R59). -/
def asmStd (timeHi : BitVec 12) (timeMid : BitVec 16) (timeLow : BitVec 32) : Word :=
  timeLow ++ timeMid ++ requiredVersion ++ timeHi

/-- The `high` word TOSORTABLE makes of a word that passed the guard (R60). -/
def toSortableHigh (h : Word) : Word :=
  let f := stdFields h
  asmSrt f.timeHi f.timeMid f.timeLow

/-- The `high` word TOSTANDARD makes of a word that passed the guard (R61). -/
def toStandardHigh (h : Word) : Word :=
  let f := srtFields h
  asmStd f.timeHi f.timeMid (f.timeLowHi20 ++ f.timeLowLo12)

/-- The result of TOSORTABLE (R60). -/
def toSortableResult (a b : Word) : Result :=
  let x := identifierOperand a b
  guarded x (.ok (toSortableHigh x.high) x.low)

/-- The result of TOSTANDARD (R61). -/
def toStandardResult (a b : Word) : Result :=
  let x := identifierOperand a b
  guarded x (.ok (toStandardHigh x.high) x.low)

/-- TOSORTABLE (R60): the block evaluates `toSortableResult a b`, which its outputs show while the command is held. -/
def execToSortable (a b : Word) (s : State) : Host.Outcome State Fault Refusal :=
  .next (s.hold opToSortable a b)

/-- TOSTANDARD (R61): the block evaluates `toStandardResult a b`, which its outputs show while the command is held. -/
def execToStandard (a b : Word) (s : State) : Host.Outcome State Fault Refusal :=
  .next (s.hold opToStandard a b)

end Sys2Proof.Machine
end

