-- ==== Sys2Proof/Machine/Dispatch.lean ====
section
/-! DEFINITION. Machine/Dispatch.lean: one arm per command, each a direct call of its meaning. -/

namespace Sys2Proof.Machine

def exec (i : Instr) (s : State) : Host.Outcome State Fault Refusal :=
  match i with
  | .toSortable a b => Sys2Proof.Machine.execToSortable a b s
  | .toStandard a b => Sys2Proof.Machine.execToStandard a b s
  | .lowestBound a b => Sys2Proof.Machine.execLowestBound a b s
  | .vguard a b => Sys2Proof.Machine.execVguard a b s

end Sys2Proof.Machine
end

