-- ==== Sys2Proof/Machine/Step.lean ====
section
/-! DEFINITION. Machine/Step.lean: one step is one evaluation of the command on the inputs (R98), in zero time (R97) and
from one consistent sample of all three (R34). Nothing is fetched and nothing sequenced (R24, R39). -/

namespace Sys2Proof.Machine

/-- One step: decode the command on the input ports and run it. The inputs stay as the host holds them (R95). -/
def step (s : State) : Host.Outcome State Fault Refusal := exec (decode (commandOnPorts s)) s

/-- The host presents the command whose bits are `w` (those above `nbits` being zero); the next step runs it
(log entry 7). The outputs follow the inputs at once (R29). -/
def State.withFetchWord (s : State) (nbits w : Nat) : State := s.presentWord (BitVec.ofNat 130 (w % 2 ^ nbits))

end Sys2Proof.Machine
end

