-- ==== Sys2Proof/Machine/CodecForms.lean ====
section
/-! DEFINITION. Machine/CodecForms.lean: the Field Codec written again as the spec writes it again, bit by bit and digit by
digit (R62) and by named masks and shifts (R63, R64), so that the writings can be proved equal. No operation reads these. -/

namespace Sys2Proof.Machine

/-- The bit of `a` that TOSORTABLE copies to output bit `i`; none at the version nibble (R62, first table). -/
def toSortableSource (i : Nat) : Option Nat :=
  if 52 ≤ i then some (i - 52)
  else if 36 ≤ i then some (i - 20)
  else if 16 ≤ i then some (i + 28)
  else if 12 ≤ i then none
  else some (i + 32)

/-- The bit of `a` that TOSTANDARD copies to output bit `i`; none at the version nibble (R62, second table). -/
def toStandardSource (i : Nat) : Option Nat :=
  if 44 ≤ i then some (i - 28)
  else if 32 ≤ i then some (i - 32)
  else if 16 ≤ i then some (i + 20)
  else if 12 ≤ i then none
  else some (i + 52)

/-- Where TOSORTABLE sends input bit `j`; bits 12 to 15 keep their place (R62). -/
def toSortableTarget (j : Nat) : Nat :=
  if j ≤ 11 then j + 52
  else if j ≤ 15 then j
  else if j ≤ 31 then j + 20
  else if j ≤ 43 then j - 32
  else j - 28

/-- Hexadecimal digit `k` of a word, `d15` down to `d0`, `d3` the version digit (R62). -/
def hexDigitAt (h : Word) (k : Nat) : Nibble := h.extractLsb' (4 * k) 4

/-- The input digit TOSORTABLE copies to output digit `k`; none at the version digit (R62, digit table). -/
def toSortableDigit (k : Nat) : Option Nat :=
  if 13 ≤ k then some (k - 13)
  else if 9 ≤ k then some (k - 5)
  else if 4 ≤ k then some (k + 7)
  else if k = 3 then none
  else some (k + 8)

/-- The input digit TOSTANDARD copies to output digit `k`; none at the version digit (R62, digit table). -/
def toStandardDigit (k : Nat) : Option Nat :=
  if 11 ≤ k then some (k - 7)
  else if 8 ≤ k then some (k - 8)
  else if 4 ≤ k then some (k + 5)
  else if k = 3 then none
  else some (k + 13)

/-- `0xDDDDDDDDDDDD1DDD`: one hexadecimal digit in all fifteen timestamp positions (R60, R81). -/
def repeatedDigit (d : Nibble) : Word :=
  d ++ d ++ d ++ d ++ d ++ d ++ d ++ d ++ d ++ d ++ d ++ d ++ requiredVersion ++ d ++ d ++ d

/-- `VERSION_MASK` (R63). -/
def versionMask : Word := 0x000000000000F000#64

/-- `VERSION_SHIFT` (R63). -/
def versionShift : Nat := 12

/-- `VERSION_ONE` (R63). -/
def versionOneInPlace : Word := 0x0000000000001000#64

/-- `STD_TIME_LOW_MASK` (R63). -/
def stdTimeLowMask : Word := 0xFFFFFFFF00000000#64

/-- `STD_TIME_LOW_SHIFT` (R63). -/
def stdTimeLowShift : Nat := 32

/-- `STD_TIME_LOW_HI20_MASK` (R63). -/
def stdTimeLowHi20Mask : Word := 0xFFFFF00000000000#64

/-- `STD_TIME_LOW_LO12_MASK` (R63). -/
def stdTimeLowLo12Mask : Word := 0x00000FFF00000000#64

/-- `STD_TIME_MID_MASK` (R63). -/
def stdTimeMidMask : Word := 0x00000000FFFF0000#64

/-- `STD_TIME_MID_SHIFT` (R63). -/
def stdTimeMidShift : Nat := 16

/-- `STD_TIME_HI_MASK` (R63). -/
def stdTimeHiMask : Word := 0x0000000000000FFF#64

/-- `STD_TIME_HI_SHIFT` (R63). -/
def stdTimeHiShift : Nat := 0

/-- `SRT_TIME_HI_MASK` (R63). -/
def srtTimeHiMask : Word := 0xFFF0000000000000#64

/-- `SRT_TIME_HI_SHIFT` (R63). -/
def srtTimeHiShift : Nat := 52

/-- `SRT_TIME_MID_MASK` (R63). -/
def srtTimeMidMask : Word := 0x000FFFF000000000#64

/-- `SRT_TIME_MID_SHIFT` (R63). -/
def srtTimeMidShift : Nat := 36

/-- `SRT_TIME_LOW_HI20_MASK` (R63). -/
def srtTimeLowHi20Mask : Word := 0x0000000FFFFF0000#64

/-- `SRT_TIME_LOW_HI20_SHIFT` (R63). -/
def srtTimeLowHi20Shift : Nat := 16

/-- `SRT_TIME_LOW_LO12_MASK` (R63). -/
def srtTimeLowLo12Mask : Word := 0x0000000000000FFF#64

/-- `SRT_TIME_LOW_LO12_SHIFT` (R63). -/
def srtTimeLowLo12Shift : Nat := 0

/-- `TIMESTAMP_MASK`: the 60 timestamp bits of both layouts (R63). -/
def timestampMask : Word := 0xFFFFFFFFFFFF0FFF#64

/-- The five terms TOSORTABLE combines, each in its place (R64). -/
def toSortableTerms (a : Word) : List Word :=
  [(a &&& stdTimeHiMask) <<< 52, (a &&& stdTimeMidMask) <<< 20, (a &&& stdTimeLowHi20Mask) >>> 28,
    versionOneInPlace, (a &&& stdTimeLowLo12Mask) >>> 32]

/-- The five terms TOSTANDARD combines, each in its place (R64). -/
def toStandardTerms (a : Word) : List Word :=
  [(a &&& srtTimeLowHi20Mask) <<< 28, (a &&& srtTimeLowLo12Mask) <<< 32, (a &&& srtTimeMidMask) >>> 20,
    versionOneInPlace, (a &&& srtTimeHiMask) >>> 52]

/-- The OR of a list of words. -/
def orOf (ws : List Word) : Word := ws.foldr (fun w acc => w ||| acc) 0#64

/-- The sum of a list of words, as naturals: no wrap hides in it. -/
def sumOf (ws : List Word) : Nat := ws.foldr (fun w acc => w.toNat + acc) 0

end Sys2Proof.Machine
end

