-- ==== Sys2Proof/Machine/Function.lean ====
section
/-! DEFINITION. Machine/Function.lean: the block as the spec sees it, a pure function from a command to its response (R13),
and a host's loop that carries each result into the next command (R96). -/

namespace Sys2Proof.Machine

/-- The result of a command (R12, R70). -/
def resultOf : Instr → Result
  | .toSortable a b => toSortableResult a b
  | .toStandard a b => toStandardResult a b
  | .lowestBound a b => lowestBoundResult a b
  | .vguard a b => vguardResult a b

/-- The response to a command: `Command → Response` (R13, R44). -/
def respond (i : Instr) : Response := responseOf (resultOf i)

/-- A host applies TOSORTABLE `n` times, each time to the previous result, stopping at a failure (R81; 95_test_vectors.md
P4). -/
def toSortableTimes : Nat → Word → Word → Result
  | 0, h, l => .ok h l
  | n + 1, h, l =>
    match resultOf (.toSortable h l) with
    | .ok h' l' => toSortableTimes n h' l'
    | .invalidVersion v => .invalidVersion v
    | .outOfRange t => .outOfRange t

end Sys2Proof.Machine
end

