-- ==== Sys2Proof/Machine/Outputs.lean ====
section
/-! DEFINITION. Machine/Outputs.lean: the four output ports (R28). They are stored nowhere: each is a function of the command
on the inputs (R13), combinational and not latched (R25), at every moment and from power-up on (R29, R93), in zero time
(R97). All four are driven for every command (R11, R28). Reading one changes nothing (R34). -/

namespace Sys2Proof.Machine

/-- The command on the inputs, as `op` selects it (R40). -/
def State.command (s : State) : Instr := commandOf s.op s.a s.b

/-- What the host reads: the response to the command on the inputs (R13, R44). -/
def State.response (s : State) : Response := respond s.command

/-- output `status` (R28). -/
def State.status (s : State) : Status := s.response.status

/-- output `out_high` (R28). -/
def State.outHigh (s : State) : Word := s.response.outHigh

/-- output `out_low` (R28). -/
def State.outLow (s : State) : Word := s.response.outLow

/-- output `err_info` (R28). -/
def State.errInfo (s : State) : Word := s.response.errInfo

end Sys2Proof.Machine
end

