-- ==== Sys2Proof/Machine/Session.lean ====
section
/-! DEFINITION. Machine/Session.lean: the host's side. A session presents commands one after another and reads each
response (R39, R96, R98); instances of the block stand side by side and share nothing (R38). -/

namespace Sys2Proof.Machine

/-- The responses a host reads when it presents commands one after another, from whatever the ports held before. A stop
would end the session; no command stops (R70). -/
def session (s : State) : List Instr → List Response
  | [] => []
  | i :: rest =>
    match step (s.present i) with
    | .next t => t.response :: session t rest
    | .fault _ => []
    | .refused _ => []

/-- A block after it has evaluated the command on its inputs. -/
def evaluated (s : State) : State :=
  match step s with
  | .next t => t
  | .fault _ => s
  | .refused _ => s

/-- A host presents a command to instance number `k` of several; nothing happens to the others (R38). -/
def presentTo (blocks : List State) (k : Nat) (i : Instr) : List State :=
  blocks.modify k fun s => evaluated (s.present i)

/-- The instances' hosts present commands, each to the instance it names, in the order listed (R38; log entry 11). -/
def presentAll (blocks : List State) (events : List (Nat × Instr)) : List State :=
  events.foldl (fun bs e => presentTo bs e.1 e.2) blocks

/-- The last command the events present to instance number `k`, if any. -/
def lastPresentedTo (k : Nat) (events : List (Nat × Instr)) : Option Instr :=
  ((events.filter fun e => e.1 == k).map Prod.snd).getLast?

end Sys2Proof.Machine
end

