-- ==== Sys2Proof/Config.lean ====
section
/-! DEFINITION. Config.lean: the widths and the tick the design fixes (R7, R8), and its one open parameter (R8, R97).
The codes and constants an operation uses stand beside it: operation codes in Decode.lean, status codes in
Machine/Flags.lean, `maxCounter` and `variantLow` in Machine/Bound.lean, the version's in Machine/Guard.lean. -/

namespace Sys2Proof.Config

/-- `W_ID`: width of an identifier (R7). -/
def wId : Nat := 128

/-- `W_WORD`: width of each of the words `high` and `low` (R7). -/
def wWord : Nat := 64

/-- `W_COUNTER`: width of the timestamp counter (R7). -/
def wCounter : Nat := 60

/-- `W_TIME_LOW` (R7). -/
def wTimeLow : Nat := 32

/-- `W_TIME_MID` (R7). -/
def wTimeMid : Nat := 16

/-- `W_TIME_HI` (R7). -/
def wTimeHi : Nat := 12

/-- `W_VERSION`: width of the version nibble (R7). -/
def wVersion : Nat := 4

/-- `W_OP`: width of the operation select (R8). -/
def wOp : Nat := 2

/-- `W_STATUS`: width of the status output (R8). -/
def wStatus : Nat := 2

/-- `W_TICK_IN`: width of the tick operand of LOWESTBOUND (R8). -/
def wTickIn : Nat := 64

/-- `W_ERR`: width of the payload output (R8). -/
def wErr : Nat := 64

/-- `TICK` in nanoseconds: the duration of one unit of the counter, used by no rule of the block (R7). -/
def tickNanoseconds : Nat := 100

/-- `T_PD` in seconds: the greatest delay from a change of an input to the last change of an output. OPEN in the spec
(R8, R97), so it has no body here: nothing can be proved of its value, and no operation reads it (log entry 5). -/
opaque tPd : NNReal

end Sys2Proof.Config
end

