-- ==== Sys2Proof/Safety.lean ====
section
/-! DEFINITION. Safety.lean: what counts as a sound block and a sound host. Which responses occur (R50), which
response the rules give the inputs (R29), what a host may read (R45; 93_implementation_defined.md U5, U7) and when (R95, R97). -/

namespace Sys2Proof.Machine

/-- The response the operations' pseudocode gives to `(op, a, b)`, written out over the bits of the inputs (R55, R60, R61,
R66, R45), apart from the functions the model's operations are made of. -/
def ruledResponse (op : OpSel) (a b : Word) : Response :=
  if op = 2#2 then
    if 2 ^ 60 ≤ a.toNat then ⟨2#2, 0#64, 0#64, a⟩
    else ⟨0#2, a.extractLsb' 12 48 ++ 1#4 ++ a.extractLsb' 0 12, 0x8000000000000000#64, 0#64⟩
  else if a.extractLsb' 12 4 ≠ 1#4 then ⟨1#2, 0#64, 0#64, (a.extractLsb' 12 4).setWidth 64⟩
  else if op = 0#2 then
    ⟨0#2, a.extractLsb' 0 12 ++ a.extractLsb' 16 16 ++ a.extractLsb' 44 20 ++ 1#4 ++ a.extractLsb' 32 12, b, 0#64⟩
  else if op = 1#2 then
    ⟨0#2, a.extractLsb' 16 20 ++ a.extractLsb' 0 12 ++ a.extractLsb' 36 16 ++ 1#4 ++ a.extractLsb' 52 12, b, 0#64⟩
  else ⟨0#2, a, b, 0#64⟩

/-- The outputs are the function of the inputs that the rules of the operations define (R29, R93). -/
abbrev Settled (s : State) : Prop := s.response = ruledResponse s.op s.a s.b

/-- The six facts about every response to a command with operation select `op` (R50). -/
def ResponseOccurs (op : OpSel) (r : Response) : Prop :=
  r.status ≠ 3#2 ∧
  (r.status = stOk → r.errInfo = 0#64) ∧
  (r.status ≠ stOk → r.outHigh = 0#64 ∧ r.outLow = 0#64) ∧
  (r.status = stInvalidVersion → op ≠ opLowestBound ∧ r.errInfo < 16#64 ∧ r.errInfo ≠ 1#64) ∧
  (r.status = stOutOfRange → op = opLowestBound ∧ 2 ^ 60 ≤ r.errInfo.toNat) ∧
  (r.status = stOk → versionNibble r.outHigh = 1#4)

/-- How a host can misread a response: its own fault, not the block's (93_implementation_defined.md U5, U7). -/
inductive HostFault where
  /-- it reads the result words under a failure status (U5) -/
  | resultUnderFailure
  /-- it reads the payload under success (U5) -/
  | payloadUnderSuccess
  /-- it sees a status of 3, which is no status of this block (U7) -/
  | notThisBlock
deriving DecidableEq, Repr

/-- A host reads the result words, `status` first (R45, U5, U7). -/
def hostReadsResult (r : Response) : Except HostFault Identifier :=
  if r.status = 3#2 then .error .notThisBlock
  else if r.status = stOk then .ok ⟨r.outHigh, r.outLow⟩
  else .error .resultUnderFailure

/-- A host reads the failure payload, `status` first (R45, U5, U7). -/
def hostReadsPayload (r : Response) : Except HostFault Word :=
  if r.status = 3#2 then .error .notThisBlock
  else if r.status = stOk then .error .payloadUnderSuccess
  else .ok r.errInfo

/-- The host's one duty: it reads the outputs after they have settled and before it changes an input (R95, R97). The
times are in seconds; no operation depends on them. -/
def ReadAfterSettling (presented read changed : NNReal) : Prop :=
  presented + Config.tPd ≤ read ∧ read < changed

end Sys2Proof.Machine
end

