-- ==== Sys2Proof/Certificates/Slice0/Obligations.lean ====
section
/-! DEFINITION. Certificates/Slice0/Obligations.lean: the statements about the block, for the provers. Each docstring names
the rule or the section of the spec a statement comes from. -/

open Sys2Proof Sys2Proof.Machine

/-! ### The command, its word and the step -/

/-- A step runs the command on the input ports: when they decode to a well-formed command `i`, the step is `exec i`. A
step adds nothing round it: there is no fetch and no pc to move (10_state.md R24, 30_encoding.md R39, R43). -/
def Obligations.StepRunsTheCommandOnThePorts : Prop :=
  ∀ (s : State) (i : Instr), decode (commandWord s.op s.a s.b) = i → i.wellFormed = true → step s = exec i s

/-- Command words the spec prints decode to the commands it prints beside them (95_test_vectors.md S1, S2, P2, P1). -/
def Obligations.PrintedCommandWordsDecode : Prop :=
  decode 0x00d0b40f8e96511e888b6ac7ba1c62b04#130 = .toSortable 0x0d0b40f8e96511e8#64 0x88b6ac7ba1c62b04#64 ∧
  decode 0x11e8e9650d0b410f888b6ac7ba1c62b04#130 = .toStandard 0x1e8e9650d0b410f8#64 0x88b6ac7ba1c62b04#64 ∧
  decode 0x201e8e9650d0b40f90000000000000000#130 = .lowestBound 0x01e8e9650d0b40f9#64 0#64 ∧
  decode 0x30d0b40f8e96511e888b6ac7ba1c62b04#130 = .vguard 0x0d0b40f8e96511e8#64 0x88b6ac7ba1c62b04#64

/-- Encoding a command and decoding the word gives the command back, every operand at every value (R40, R43). -/
def Obligations.DecodeOfEncodeIsTheCommand : Prop := ∀ i : Instr, decode (encode i) = i

/-- Decoding a word and encoding the command gives the word back: each of the 2^130 words is one command, and no bit of
it is dropped (R43, R48). -/
def Obligations.EncodeOfDecodeIsTheWord : Prop := ∀ w : CommandWord, encode (decode w) = w

/-- R43: the fields of `CMD = op ‖ a ‖ b`, and selection of an operation by `CMD & MASK = MATCH`, with
`MASK = 0x3 << 128` and `MATCH = op << 128`. -/
def Obligations.CommandWordFieldsAndSelection : Prop :=
  (∀ (op : OpSel) (a b : Word),
    let w : CommandWord := op ++ a ++ b
    w.extractLsb' 128 2 = op ∧ w.extractLsb' 64 64 = a ∧ w.extractLsb' 0 64 = b ∧
    ∀ k : OpSel, w &&& ((3#130) <<< 128) = (k.setWidth 130) <<< 128 ↔ op = k) ∧
  (∀ w : CommandWord,
    let a : Word := w.extractLsb' 64 64
    let b : Word := w.extractLsb' 0 64
    (w &&& ((3#130) <<< 128) = (0#130) <<< 128 → decode w = .toSortable a b) ∧
    (w &&& ((3#130) <<< 128) = (1#130) <<< 128 → decode w = .toStandard a b) ∧
    (w &&& ((3#130) <<< 128) = (2#130) <<< 128 → decode w = .lowestBound a b) ∧
    (w &&& ((3#130) <<< 128) = (3#130) <<< 128 → decode w = .vguard a b))

/-- A number is refused by the decoder exactly when it has a bit above bit 129, and else decodes as its command word.
The spec gives one command length (30_encoding.md section 3); refusing a longer number is the model's choice (log entry 7). -/
def Obligations.OnlyWiderNumbersAreRefused : Prop :=
  ∀ nbits w : Nat, w < 2 ^ nbits →
    (decodeTableWord nbits w = none ↔ 2 ^ 130 ≤ w) ∧
    (w < 2 ^ 130 → decodeTableWord nbits w = some (decode (BitVec.ofNat 130 w)))

/-- A command the host presents is the one the very next step runs (the model's reading of 30_encoding.md section 1, log
entry 7); and the outputs are its response as soon as it stands on the inputs, with nothing of an earlier command held
over (10_state.md R25, R29). -/
def Obligations.NextStepRunsThePresentedCommand : Prop :=
  ∀ (s : State) (nbits w : Nat) (i : Instr), w < 2 ^ nbits → decodeTableWord nbits w = some i →
    step (s.withFetchWord nbits w) = exec i (s.withFetchWord nbits w) ∧
    (s.withFetchWord nbits w).response = respond i

/-! ### Each operation: its result, and that it completes -/

/-- R60, the pseudocode of TOSORTABLE on every operand: when `a[15:12] = 1` it completes with status 0, the permuted word,
`b` and payload 0; otherwise it completes with `InvalidVersion(a[15:12])`. -/
def Obligations.ToSortableResponse : Prop :=
  ∀ (a b : Word) (s : State),
    decode (commandWord 0#2 a b) = .toSortable a b ∧
    (a.extractLsb' 12 4 = 1#4 → ∃ t, exec (.toSortable a b) s = .next t ∧
      t.response = ⟨0#2,
        a.extractLsb' 0 12 ++ a.extractLsb' 16 16 ++ a.extractLsb' 44 20 ++ 1#4 ++ a.extractLsb' 32 12, b, 0#64⟩) ∧
    (a.extractLsb' 12 4 ≠ 1#4 → ∃ t, exec (.toSortable a b) s = .next t ∧
      t.response = ⟨1#2, 0#64, 0#64, (a.extractLsb' 12 4).setWidth 64⟩)

/-- R61, the pseudocode of TOSTANDARD on every operand: when `a[15:12] = 1` it completes with status 0, the permuted word,
`b` and payload 0; otherwise it completes with `InvalidVersion(a[15:12])`. -/
def Obligations.ToStandardResponse : Prop :=
  ∀ (a b : Word) (s : State),
    decode (commandWord 1#2 a b) = .toStandard a b ∧
    (a.extractLsb' 12 4 = 1#4 → ∃ t, exec (.toStandard a b) s = .next t ∧
      t.response = ⟨0#2,
        a.extractLsb' 16 20 ++ a.extractLsb' 0 12 ++ a.extractLsb' 36 16 ++ 1#4 ++ a.extractLsb' 52 12, b, 0#64⟩) ∧
    (a.extractLsb' 12 4 ≠ 1#4 → ∃ t, exec (.toStandard a b) s = .next t ∧
      t.response = ⟨1#2, 0#64, 0#64, (a.extractLsb' 12 4).setWidth 64⟩)

/-- R66, the pseudocode of LOWESTBOUND on every operand: for `T = a ≤ 2^60 − 1` it completes with status 0,
`T[59:12] ‖ 1 ‖ T[11:0]` (the same as its shift and mask form), the variant bit alone and payload 0; otherwise it
completes with `OutOfRange(T)`. The range test is the same as `a[63:60] ≠ 0`. -/
def Obligations.LowestBoundResponse : Prop :=
  ∀ (a b : Word) (s : State),
    decode (commandWord 2#2 a b) = .lowestBound a b ∧
    (a.toNat ≤ 2 ^ 60 - 1 → ∃ t, exec (.lowestBound a b) s = .next t ∧
      t.response = ⟨0#2, a.extractLsb' 12 48 ++ 1#4 ++ a.extractLsb' 0 12, 0x8000000000000000#64, 0#64⟩ ∧
      t.outHigh = ((a >>> 12) <<< 16) ||| 0x1000#64 ||| (a &&& 0xFFF#64)) ∧
    (2 ^ 60 - 1 < a.toNat → ∃ t, exec (.lowestBound a b) s = .next t ∧ t.response = ⟨2#2, 0#64, 0#64, a⟩) ∧
    (2 ^ 60 - 1 < a.toNat ↔ a.extractLsb' 60 4 ≠ 0#4)

/-- R55, the pseudocode of VGUARD on every operand: when `a[15:12] = 1` it completes with status 0 and the identifier
itself; otherwise it completes with `InvalidVersion(a[15:12])`. -/
def Obligations.VguardResponse : Prop :=
  ∀ (a b : Word) (s : State),
    decode (commandWord 3#2 a b) = .vguard a b ∧
    (a.extractLsb' 12 4 = 1#4 → ∃ t, exec (.vguard a b) s = .next t ∧ t.response = ⟨0#2, a, b, 0#64⟩) ∧
    (a.extractLsb' 12 4 ≠ 1#4 → ∃ t, exec (.vguard a b) s = .next t ∧
      t.response = ⟨1#2, 0#64, 0#64, (a.extractLsb' 12 4).setWidth 64⟩)

/-- R54: the Version Guard passes exactly on version nibble 1, fails with the observed nibble otherwise, reads those four
bits and nothing else, and its failure is the result of both codec operations. -/
def Obligations.VersionGuardContract : Prop :=
  ∀ h : Word,
    (h.extractLsb' 12 4 = 1#4 → versionGuard h = .pass) ∧
    (h.extractLsb' 12 4 ≠ 1#4 → versionGuard h = .fail (h.extractLsb' 12 4)) ∧
    (∀ h' : Word, h'.extractLsb' 12 4 = h.extractLsb' 12 4 → versionGuard h' = versionGuard h) ∧
    (∀ (v : Nibble) (l : Word), versionGuard h = .fail v →
      resultOf (.toSortable h l) = .invalidVersion v ∧ resultOf (.toStandard h l) = .invalidVersion v)

/-! ### Frame, totality, independence -/

/-- The frame of TOSORTABLE, TOSTANDARD, LOWESTBOUND and VGUARD, in every form: after the command the inputs hold it, the
four outputs show its response, and State has nothing else: no register, flag, special register or memory exists
(10_state.md section 4). A step, whose command is the one on the inputs, leaves the inputs, and so the whole state, as
they were. That the inputs are held is the host's duty (70_reset_and_hazards.md section 3) and the model's choice for its
step (log entries 1 and 4). -/
def Obligations.OperationsLeaveNothingElseBehind : Prop :=
  ∀ (i : Instr) (s t : State), exec i s = .next t →
    t.op = i.op ∧ t.a = i.a ∧ t.b = i.b ∧ t.response = respond i ∧ (decode (commandOnPorts s) = i → t = s)

/-- R70: every command has exactly one response, the one of its operation's rule, the same whatever the ports held
before; and it succeeds exactly when the version nibble is 1 (`op` 0, 1, 3) or the tick count is below 2^60 (`op` 2). -/
def Obligations.EveryCommandHasOneResponse : Prop :=
  ∀ s : State, ∃ t : State, step s = .next t ∧
    (s.op = 0#2 → t.response = responseOf (toSortableResult s.a s.b)) ∧
    (s.op = 1#2 → t.response = responseOf (toStandardResult s.a s.b)) ∧
    (s.op = 2#2 → t.response = responseOf (lowestBoundResult s.a s.b)) ∧
    (s.op = 3#2 → t.response = responseOf (vguardResult s.a s.b)) ∧
    (t.status = 0#2 ↔ if s.op = 2#2 then s.a.toNat < 2 ^ 60 else s.a.extractLsb' 12 4 = 1#4) ∧
    (∀ s' : State, s'.op = s.op → s'.a = s.a → s'.b = s.b → step s' = .next t)

/-- R13: whatever commands a host presents, and whatever the ports held before the first, each response is the function of
its own command alone. No earlier command, failing or not, can be seen. That a session presents each command by
`State.present` and then steps once is the model's choice (log entry 7); the rule's claim is about the responses read. -/
def Obligations.SessionsAreMemoryless : Prop :=
  ∀ (s : State) (commands : List Instr), session s commands = commands.map respond

/-- Commands may be evaluated in any order: each gets the same response (R36). How a session presents its commands is the
model's choice (log entry 7). -/
def Obligations.CommandsMayBeReordered : Prop :=
  ∀ (s s' : State) (commands commands' : List Instr), commands.Perm commands' →
    (commands.zip (session s commands)).Perm (commands'.zip (session s' commands'))

/-- Instances share nothing and need no coordination (R36, R38): whatever commands are presented to however many of them,
an instance's outputs are the response to the last command presented to itself, and, if none was, to the one on its
inputs from before; and commands to different instances may be presented in either order. That the instances are a list
and the presentings an ordered list of events is the model's choice, since the rules give no order (log entry 11). -/
def Obligations.InstancesAreIndependent : Prop :=
  (∀ (blocks : List State) (events : List (Nat × Instr)) (k : Nat) (s : State), blocks[k]? = some s →
    ∃ t : State, (presentAll blocks events)[k]? = some t ∧
      t.response = match lastPresentedTo k events with
        | some i => respond i
        | none => s.response) ∧
  (∀ (blocks : List State) (j k : Nat) (i i' : Instr), j ≠ k →
    presentAll blocks [(j, i), (k, i')] = presentAll blocks [(k, i'), (j, i)])

/-- At every moment the outputs are the function of the inputs that the operations' rules define: in every state, also one
no run reaches, and after every step (10_state.md section 6); so the outputs may be read again (20_memory.md section 4).
`ruledResponse` writes the function out over the bits of the inputs. That a step leaves the inputs as they were is the
host's duty (70_reset_and_hazards.md section 3) and the model's choice for its step (log entry 4), and that the outputs
stay as they were follows from it. The state's form is the model's (log entry 1), and so is that no time passes (log
entry 5). -/
def Obligations.OutputsFollowTheInputsAtEveryMoment : Prop :=
  (∀ s t : State, Settled s → step s = .next t →
    Settled t ∧ t.op = s.op ∧ t.a = s.a ∧ t.b = s.b ∧ t.response = s.response) ∧
  (∀ s : State, Settled s ∧ ∃ t : State, step s = .next t)

/-- At power-up the outputs are already the function of the inputs the rules define (10_state.md section 6). The inputs at power-up are the
model's choice (log entry 2). -/
def Obligations.PowerUpIsSettled : Prop :=
  Settled State.reset ∧ ResponseOccurs State.reset.op State.reset.response

/-! ### Responses -/

/-- R12: every operation is a total function into the tagged union: one result, meeting the union's side conditions. -/
def Obligations.EveryOperationGivesOneWellFormedResult : Prop :=
  ∀ (i : Instr) (s : State), ∃! r : Result,
    (∀ v, r = .invalidVersion v → v ≠ 1#4) ∧ (∀ u, r = .outOfRange u → 2 ^ 60 - 1 < u.toNat) ∧
    ∃ t : State, exec i s = .next t ∧ t.response = responseOf r

/-- R45: the port encoding of a result, row by row; it is injective; and a failure shows no bit of a result. -/
def Obligations.ResultEncodingIsInjective : Prop :=
  (∀ h l : Word, responseOf (.ok h l) = ⟨0#2, h, l, 0#64⟩) ∧
  (∀ v : Nibble, responseOf (.invalidVersion v) = ⟨1#2, 0#64, 0#64, v.setWidth 64⟩) ∧
  (∀ u : Word, responseOf (.outOfRange u) = ⟨2#2, 0#64, 0#64, u⟩) ∧
  (∀ r r' : Result, responseOf r = responseOf r' → r = r') ∧
  (∀ r : Result, resultRead (responseOf r) = some r)

/-- R44: the fields of `RSP = status ‖ out_high ‖ out_low ‖ err_info`. -/
def Obligations.ResponseWordFields : Prop :=
  ∀ r : Response,
    (responseWord r).extractLsb' 192 2 = r.status ∧ (responseWord r).extractLsb' 128 64 = r.outHigh ∧
    (responseWord r).extractLsb' 64 64 = r.outLow ∧ (responseWord r).extractLsb' 0 64 = r.errInfo

/-- R47: the payload of each failure kind and the values it can take. -/
def Obligations.FailurePayloads : Prop :=
  (∀ (a b : Word) (s : State) (i : Instr), i = .toSortable a b ∨ i = .toStandard a b ∨ i = .vguard a b →
    a.extractLsb' 12 4 ≠ 1#4 → ∃ t, exec i s = .next t ∧ t.status = 1#2 ∧
      t.errInfo = (a.extractLsb' 12 4).setWidth 64 ∧ t.errInfo.extractLsb' 4 60 = 0#60 ∧
      (t.errInfo.toNat = 0 ∨ 2 ≤ t.errInfo.toNat ∧ t.errInfo.toNat ≤ 15)) ∧
  (∀ (a b : Word) (s : State), 2 ^ 60 ≤ a.toNat → ∃ t, exec (.lowestBound a b) s = .next t ∧ t.status = 2#2 ∧
    t.errInfo = a ∧ 2 ^ 60 ≤ t.errInfo.toNat ∧ t.errInfo.toNat ≤ 2 ^ 64 - 1 ∧ t.errInfo.extractLsb' 60 4 ≠ 0#4)

/-- The six facts about every response, "Responses that never occur" (30_encoding.md section 3; the spec marks the list as
derived). -/
def Obligations.ImpossibleResponsesNeverOccur : Prop :=
  ∀ s t : State, step s = .next t → ResponseOccurs s.op t.response

/-- A host that reads `status` first gets the result exactly when the command succeeded, and never meets a status that is
not this block's (93_implementation_defined.md section 2, U5 and U7; the reader is the model's, log entry 6). -/
def Obligations.HostReadsResultsOnlyOnSuccess : Prop :=
  ∀ i : Instr,
    (∀ h l : Word, resultOf i = .ok h l ↔ hostReadsResult (respond i) = .ok ⟨h, l⟩) ∧
    (∀ p : Word, hostReadsPayload (respond i) = .ok p →
      resultOf i = .invalidVersion (p.setWidth 4) ∧ p.toNat < 16 ∨ resultOf i = .outOfRange p) ∧
    hostReadsResult (respond i) ≠ .error .notThisBlock

/-! ### The document's properties -/

/-- R71: each codec operation undoes the other on every version-1 identifier, the word between them is version 1, and
`low` comes through. -/
def Obligations.CodecRoundTrip : Prop :=
  ∀ (h l : Word) (s : State), VersionOne h →
    (∃ t u, exec (.toSortable h l) s = .next t ∧ t.status = 0#2 ∧ VersionOne t.outHigh ∧ t.outLow = l ∧
      exec (.toStandard t.outHigh t.outLow) t = .next u ∧ u.response = ⟨0#2, h, l, 0#64⟩) ∧
    (∃ t u, exec (.toStandard h l) s = .next t ∧ t.status = 0#2 ∧ VersionOne t.outHigh ∧ t.outLow = l ∧
      exec (.toSortable t.outHigh t.outLow) t = .next u ∧ u.response = ⟨0#2, h, l, 0#64⟩)

/-- R65, R72: `low` is carried through unchanged in every bit by both directions of the codec and by VGUARD; it influences
neither the other outputs nor the status; and on failure `out_low` is 0. -/
def Obligations.LowIsCarriedThrough : Prop :=
  ∀ (h l l' : Word) (s : State) (f : Word → Word → Instr), f = .toSortable ∨ f = .toStandard ∨ f = .vguard →
    ∃ t u, exec (f h l) s = .next t ∧ exec (f h l') s = .next u ∧
      t.status = u.status ∧ t.outHigh = u.outHigh ∧ t.errInfo = u.errInfo ∧
      (VersionOne h → t.status = 0#2 ∧ t.outLow = l) ∧ (¬ VersionOne h → t.status = 1#2 ∧ t.outLow = 0#64)

/-- R73: the version nibble of the output equals 1 when the input's does, and, stronger, every successful response of
every operation has `out_high[15:12] = 1`. -/
def Obligations.VersionIsPreserved : Prop :=
  (∀ (h l : Word) (s : State), h.extractLsb' 12 4 = 1#4 →
    (∃ t, exec (.toSortable h l) s = .next t ∧ t.outHigh.extractLsb' 12 4 = 1#4) ∧
    (∃ t, exec (.toStandard h l) s = .next t ∧ t.outHigh.extractLsb' 12 4 = 1#4)) ∧
  (∀ (i : Instr) (s t : State), exec i s = .next t → t.status = 0#2 → t.outHigh.extractLsb' 12 4 = 1#4)

/-- R74: for each of the fifteen other nibble values, the codec in both directions and VGUARD reject with that value, and
the other bits of `a` and all of `b` play no part. -/
def Obligations.OtherVersionsAreRejected : Prop :=
  ∀ (v : Nibble) (a b : Word) (s : State) (f : Word → Word → Instr), v ≠ 1#4 → a.extractLsb' 12 4 = v →
    f = .toSortable ∨ f = .toStandard ∨ f = .vguard →
    ∃ t, exec (f a b) s = .next t ∧ t.response = ⟨1#2, 0#64, 0#64, v.setWidth 64⟩ ∧
      ∀ a' b' : Word, a'.extractLsb' 12 4 = v → ∃ u, exec (f a' b') s = .next u ∧ u.response = t.response

/-- R75, R76: the bound at the maximum, and the overflow from one tick beyond it upwards, whatever `b` is. -/
def Obligations.BoundAtTheMaximumAndBeyond : Prop :=
  ∀ (b : Word) (s : State),
    (∃ t, exec (.lowestBound 0x0FFFFFFFFFFFFFFF#64 b) s = .next t ∧
      t.response = ⟨0#2, 0xFFFFFFFFFFFF1FFF#64, 0x8000000000000000#64, 0#64⟩) ∧
    (∃ t, exec (.lowestBound 0x1000000000000000#64 b) s = .next t ∧
      t.response = ⟨2#2, 0#64, 0#64, 0x1000000000000000#64⟩) ∧
    (∀ a : Word, 2 ^ 60 ≤ a.toNat → ∃ t, exec (.lowestBound a b) s = .next t ∧ t.response = ⟨2#2, 0#64, 0#64, a⟩)

/-! ### Layouts and the equivalent forms of the codec -/

/-- R21: in each layout a version-1 word determines its counter and is determined by it; no bit is duplicated or dropped. -/
def Obligations.LayoutsPartitionTheWord : Prop :=
  (∀ h : Word, VersionOne h →
    asmStd (counterTimeHi (counterStd h)) (counterTimeMid (counterStd h)) (counterTimeLow (counterStd h)) = h ∧
    asmSrt (counterTimeHi (counterSrt h)) (counterTimeMid (counterSrt h)) (counterTimeLow (counterSrt h)) = h) ∧
  (∀ c : Counter,
    VersionOne (asmStd (counterTimeHi c) (counterTimeMid c) (counterTimeLow c)) ∧
    VersionOne (asmSrt (counterTimeHi c) (counterTimeMid c) (counterTimeLow c)) ∧
    counterStd (asmStd (counterTimeHi c) (counterTimeMid c) (counterTimeLow c)) = c ∧
    counterSrt (asmSrt (counterTimeHi c) (counterTimeMid c) (counterTimeLow c)) = c)

/-- R56 to R59: extraction by each layout reads the slices of its table, assembly by each layout puts the fields and the
constant version nibble 1 where its table has them, and extraction reads back what assembly wrote. -/
def Obligations.FieldsReadBackWhatAssemblyWrote : Prop :=
  (∀ h : Word, stdFields h = ⟨h.extractLsb' 32 32, h.extractLsb' 16 16, h.extractLsb' 12 4, h.extractLsb' 0 12⟩ ∧
    timeLowHi20 (stdFields h).timeLow = h.extractLsb' 44 20 ∧ timeLowLo12 (stdFields h).timeLow = h.extractLsb' 32 12 ∧
    srtFields h = ⟨h.extractLsb' 52 12, h.extractLsb' 36 16, h.extractLsb' 16 20, h.extractLsb' 12 4,
      h.extractLsb' 0 12⟩) ∧
  (∀ (timeHi : BitVec 12) (timeMid : BitVec 16) (timeLow : BitVec 32),
    asmSrt timeHi timeMid timeLow =
      timeHi ++ timeMid ++ timeLow.extractLsb' 12 20 ++ 1#4 ++ timeLow.extractLsb' 0 12 ∧
    asmStd timeHi timeMid timeLow = timeLow ++ timeMid ++ 1#4 ++ timeHi ∧
    stdFields (asmStd timeHi timeMid timeLow) = ⟨timeLow, timeMid, 1#4, timeHi⟩ ∧
    srtFields (asmSrt timeHi timeMid timeLow) =
      ⟨timeHi, timeMid, timeLow.extractLsb' 12 20, 1#4, timeLow.extractLsb' 0 12⟩ ∧
    timeLow.extractLsb' 12 20 ++ timeLow.extractLsb' 0 12 = timeLow)

/-- R18: the counter decomposes exactly into `time_hi ‖ time_mid ‖ time_low`. -/
def Obligations.CounterDecomposes : Prop :=
  ∀ c : Counter, c = counterTimeHi c ++ counterTimeMid c ++ counterTimeLow c ∧
    c.toNat = (counterTimeHi c).toNat * 2 ^ 48 + (counterTimeMid c).toNat * 2 ^ 32 + (counterTimeLow c).toNat

/-- The codec bit by bit and hexadecimal digit by digit, and the two bit maps inverse to each other (41_field_codec.md
section 3; the spec marks these forms as derived from its normative one). -/
def Obligations.CodecMovesBitsByTheTables : Prop :=
  (∀ (a b : Word) (s : State), VersionOne a →
    (∃ t, exec (.toSortable a b) s = .next t ∧
      (∀ i < 64, t.outHigh.getLsbD i = match toSortableSource i with
        | some j => a.getLsbD j
        | none => decide (i = 12)) ∧
      (∀ k < 16, hexDigitAt t.outHigh k = match toSortableDigit k with
        | some j => hexDigitAt a j
        | none => 1#4)) ∧
    (∃ t, exec (.toStandard a b) s = .next t ∧
      (∀ i < 64, t.outHigh.getLsbD i = match toStandardSource i with
        | some j => a.getLsbD j
        | none => decide (i = 12)) ∧
      (∀ k < 16, hexDigitAt t.outHigh k = match toStandardDigit k with
        | some j => hexDigitAt a j
        | none => 1#4))) ∧
  (∀ j < 64, j < 12 ∨ 16 ≤ j →
    toSortableTarget j < 64 ∧ toSortableSource (toSortableTarget j) = some j ∧
    toStandardSource j = some (toSortableTarget j))

/-- The codec by masks and shifts in place: the five terms, combined by OR, are the word, and also their sum as numbers, so
no carry arises (41_field_codec.md section 3; the spec marks this form as derived). -/
def Obligations.CodecByMasksAndShifts : Prop :=
  ∀ (a b : Word) (s : State), VersionOne a →
    (∃ t, exec (.toSortable a b) s = .next t ∧
      t.outHigh = orOf (toSortableTerms a) ∧ t.outHigh.toNat = sumOf (toSortableTerms a)) ∧
    (∃ t, exec (.toStandard a b) s = .next t ∧
      t.outHigh = orOf (toStandardTerms a) ∧ t.outHigh.toNat = sumOf (toStandardTerms a))

/-- The value of an identifier is the number its 128 bits spell, and comparing values is comparing `high` and, on a tie,
`low`, unsigned (20_memory.md R31). -/
def Obligations.ValuesCompareWordByWord : Prop :=
  ∀ x y : Identifier,
    value128 x = (identifierBits x).toNat ∧ value128 x < 2 ^ 128 ∧
    (value128 x < value128 y ↔ x.high < y.high ∨ x.high = y.high ∧ x.low < y.low)

/-- The groups of the canonical text hold, for an identifier in the standard layout, `time_low`, `time_mid`, the version
and `time_hi`, then the clock sequence and the node (20_memory.md section 2 and 10_state.md section 2; the spec marks both
as derived). -/
def Obligations.TextGroupsAreTheStandardFields : Prop :=
  ∀ x : Identifier,
    (textGroups x).group1 = (stdFields x.high).timeLow ∧ (textGroups x).group2 = (stdFields x.high).timeMid ∧
    (textGroups x).group3 = (stdFields x.high).version ++ (stdFields x.high).timeHi ∧
    (textGroups x).group4 = clockSeqHighVariant x.low ++ clockSeqLow x.low ∧ (textGroups x).group5 = node x.low

/-- R41, R49: which operand bits the response depends on. Each bit of `a` under every operation and each bit of `b` under
TOSORTABLE, TOSTANDARD and VGUARD makes a difference somewhere, there only to `out_low`; no bit of `b` does under
LOWESTBOUND. -/
def Obligations.OperandBitsUsed : Prop :=
  (∀ (op : OpSel) (i : Nat), i < 64 →
    ∃ a b : Word, respond (commandOf op (a ^^^ BitVec.twoPow 64 i) b) ≠ respond (commandOf op a b)) ∧
  (∀ (op : OpSel) (i : Nat), op ≠ 2#2 → i < 64 →
    ∃ a b : Word, respond (commandOf op a (b ^^^ BitVec.twoPow 64 i)) ≠ respond (commandOf op a b)) ∧
  (∀ (op : OpSel) (a b b' : Word), op ≠ 2#2 →
    (respond (commandOf op a b)).status = (respond (commandOf op a b')).status ∧
    (respond (commandOf op a b)).outHigh = (respond (commandOf op a b')).outHigh ∧
    (respond (commandOf op a b)).errInfo = (respond (commandOf op a b')).errInfo ∧
    ((respond (commandOf op a b)).status = 0#2 → (respond (commandOf op a b)).outLow = b)) ∧
  (∀ (a b b' : Word) (s : State), ∃ t u, exec (.lowestBound a b) s = .next t ∧ exec (.lowestBound a b') s = .next u ∧
    t.response = u.response) ∧
  (∀ a a' b b' : Word, a.extractLsb' 12 4 = a'.extractLsb' 12 4 →
    (respond (.vguard a b)).status = (respond (.vguard a' b')).status) ∧
  (∀ a b : Word, (respond (.vguard a b)).status = 0#2 → (respond (.vguard a b)).outHigh = a)

/-! ### Consequences the spec derives -/

/-- The counter is carried exactly by every operation that moves it (43_properties.md section 3, "No information loss";
derived by the spec). -/
def Obligations.CounterIsCarriedExactly : Prop :=
  (∀ (h l : Word) (s : State), VersionOne h →
    (∃ t, exec (.toSortable h l) s = .next t ∧ counterSrt t.outHigh = counterStd h) ∧
    (∃ t, exec (.toStandard h l) s = .next t ∧ counterStd t.outHigh = counterSrt h)) ∧
  (∀ (u b : Word) (s : State), u.toNat < 2 ^ 60 →
    ∃ t, exec (.lowestBound u b) s = .next t ∧ (counterSrt t.outHigh).toNat = u.toNat)

/-- The sorting law, the purpose of the block: sortable words compare as their counters do, and so TOSORTABLE makes the
raw value of standard-layout identifiers follow their timestamps, ties ordered by `low` (43_properties.md section 3, "The
sorting law"; derived by the spec). -/
def Obligations.SortableOrderIsTimeOrder : Prop :=
  (∀ s₁ s₂ l₁ l₂ : Word, VersionOne s₁ → VersionOne s₂ →
    (counterSrt s₁ < counterSrt s₂ → s₁ < s₂) ∧ (s₁ < s₂ → value128 ⟨s₁, l₁⟩ < value128 ⟨s₂, l₂⟩) ∧
    (counterSrt s₁ = counterSrt s₂ ↔ s₁ = s₂)) ∧
  (∀ (h₁ h₂ l₁ l₂ : Word) (s : State), VersionOne h₁ → VersionOne h₂ →
    ∃ t u, exec (.toSortable h₁ l₁) s = .next t ∧ exec (.toSortable h₂ l₂) s = .next u ∧
      (counterStd h₁ < counterStd h₂ → value128 ⟨t.outHigh, t.outLow⟩ < value128 ⟨u.outHigh, u.outLow⟩) ∧
      (counterStd h₁ = counterStd h₂ →
        (value128 ⟨t.outHigh, t.outLow⟩ < value128 ⟨u.outHigh, u.outLow⟩ ↔ l₁ < l₂)))

/-- The result of LOWESTBOUND is in the sortable layout: assembled there from the parts of the tick count, it carries the
tick count, and TOSTANDARD takes it to the standard layout (42_bound_constructor.md section 2; derived by the spec). -/
def Obligations.BoundIsInTheSortableLayout : Prop :=
  ∀ (u b : Word) (s : State), u.toNat < 2 ^ 60 →
    ∃ t v, exec (.lowestBound u b) s = .next t ∧
      t.outHigh = asmSrt (u.extractLsb' 48 12) (u.extractLsb' 32 16) (u.extractLsb' 0 32) ∧
      counterSrt t.outHigh = u.setWidth 60 ∧
      exec (.toStandard t.outHigh t.outLow) t = .next v ∧ v.status = 0#2 ∧ counterStd v.outHigh = u.setWidth 60

/-- Minimality of the bound: at or below every RFC-variant sortable identifier of its tick, with equality only for the
variant bit alone, and above every identifier of an earlier tick (43_properties.md section 3, "Minimality of the bound";
derived by the spec). -/
def Obligations.BoundIsTheSmallestOfItsTick : Prop :=
  ∀ (u b : Word) (s : State), u.toNat < 2 ^ 60 → ∃ t, exec (.lowestBound u b) s = .next t ∧
    (∀ h l : Word, VersionOne h → counterSrt h = u.setWidth 60 → l.getLsbD 63 = true →
      value128 ⟨t.outHigh, t.outLow⟩ ≤ value128 ⟨h, l⟩ ∧
      (value128 ⟨t.outHigh, t.outLow⟩ = value128 ⟨h, l⟩ ↔ l = 0x8000000000000000#64)) ∧
    (∀ h l : Word, VersionOne h → (counterSrt h).toNat < u.toNat →
      value128 ⟨h, l⟩ < value128 ⟨t.outHigh, t.outLow⟩)

/-- A range scan finds one tick: for a tick below the maximum, a standard-layout RFC-variant identifier, made sortable,
lies at or above the tick's bound and below the next tick's exactly when it carries that tick (43_properties.md section 3
and 95_test_vectors.md P2; derived). -/
def Obligations.RangeScanFindsExactlyOneTick : Prop :=
  ∀ (u b h l : Word) (s : State), u.toNat + 1 < 2 ^ 60 → VersionOne h → l.getLsbD 63 = true →
    ∃ lower upper key,
      exec (.lowestBound u b) s = .next lower ∧ exec (.lowestBound (u + 1#64) b) s = .next upper ∧
      exec (.toSortable h l) s = .next key ∧
      (value128 ⟨lower.outHigh, lower.outLow⟩ ≤ value128 ⟨key.outHigh, key.outLow⟩ ∧
        value128 ⟨key.outHigh, key.outLow⟩ < value128 ⟨upper.outHigh, upper.outLow⟩ ↔
          counterStd h = u.setWidth 60)

/-- The bound and the codec agree: the bound of an identifier's counter has the `high` word TOSORTABLE gives the
identifier (43_properties.md section 3, "The bound and the codec agree"; derived by the spec). -/
def Obligations.BoundAgreesWithTheCodec : Prop :=
  ∀ (h l b : Word) (s : State), VersionOne h →
    ∃ t u, exec (.toSortable h l) s = .next t ∧ exec (.lowestBound ((counterStd h).setWidth 64) b) s = .next u ∧
      t.status = 0#2 ∧ u.status = 0#2 ∧ t.outHigh = u.outHigh

/-- The 15-cycle: fifteen applications of TOSORTABLE return a version-1 identifier, fourteen are one TOSTANDARD, two are
not the identity, and the fixed points of either operation are exactly the words of one repeated timestamp digit
(43_properties.md section 3, "The codec is not an involution"; derived by the spec). -/
def Obligations.FifteenApplicationsReturnTheIdentifier : Prop :=
  (∀ h l : Word, VersionOne h →
    toSortableTimes 15 h l = .ok h l ∧ toSortableTimes 14 h l = resultOf (.toStandard h l) ∧
    (resultOf (.toSortable h l) = .ok h l ↔ ∃ d : Nibble, h = repeatedDigit d) ∧
    (resultOf (.toStandard h l) = .ok h l ↔ ∃ d : Nibble, h = repeatedDigit d)) ∧
  (∃ h : Word, VersionOne h ∧ ∀ l : Word, toSortableTimes 2 h l ≠ .ok h l)

/-- The block cannot tell the layouts apart: every version-1 word is accepted by both directions, and every version-1 word
is the result of each direction on some version-1 word (43_properties.md section 3, "The block cannot tell the layouts
apart"; derived by the spec). -/
def Obligations.LayoutsCannotBeToldApart : Prop :=
  ∀ (h l : Word) (s : State), VersionOne h →
    (∃ t, exec (.toSortable h l) s = .next t ∧ t.status = 0#2) ∧
    (∃ t, exec (.toStandard h l) s = .next t ∧ t.status = 0#2) ∧
    (∃ x t, VersionOne x ∧ exec (.toSortable x l) s = .next t ∧ t.response = ⟨0#2, h, l, 0#64⟩) ∧
    (∃ x t, VersionOne x ∧ exec (.toStandard x l) s = .next t ∧ t.response = ⟨0#2, h, l, 0#64⟩)
end

