-- ==== Sys2Proof/Laws/Bits.lean ====
section
/-! SUPPORT. Laws/Bits.lean: bit `i` of every word the model puts together by concatenation, so that a proof about bits
never meets `++`. -/

namespace Sys2Proof.Machine

/-- A nibble's bits inside a concatenation: the version nibble 1 has its lowest bit set and no other. -/
theorem getLsbD_requiredVersion (i : Nat) : requiredVersion.getLsbD i = decide (i = 0) := by
  rcases i with _ | i
  · rfl
  · simp [requiredVersion, BitVec.getLsbD_one]

/-- A part of a part: bit `i` of a slice inside its bounds. -/
theorem getLsbD_slice {n : Nat} (x : BitVec n) {start len i : Nat} (h : i < len) :
    (x.extractLsb' start len).getLsbD i = x.getLsbD (start + i) := by
  simp [h]

/-- Bit `i` of a word assembled by the sortable layout (R58). -/
theorem getLsbD_asmSrt (hi : BitVec 12) (mid : BitVec 16) (lo : BitVec 32) (i : Nat) :
    (asmSrt hi mid lo).getLsbD i =
      if i < 12 then lo.getLsbD i
      else if i < 16 then decide (i = 12)
      else if i < 36 then lo.getLsbD (i - 4)
      else if i < 52 then mid.getLsbD (i - 36)
      else hi.getLsbD (i - 52) := by
  have h₁ := BitVec.getLsbD_append (x := hi ++ mid ++ timeLowHi20 lo ++ requiredVersion) (y := timeLowLo12 lo) (i := i)
  have h₂ := BitVec.getLsbD_append (x := hi ++ mid ++ timeLowHi20 lo) (y := requiredVersion) (i := i - 12)
  have h₃ := BitVec.getLsbD_append (x := hi ++ mid) (y := timeLowHi20 lo) (i := i - 12 - 4)
  have h₄ := BitVec.getLsbD_append (x := hi) (y := mid) (i := i - 12 - 4 - 20)
  refine h₁.trans ?_
  rw [h₂, h₃, h₄, getLsbD_requiredVersion]
  simp only [Nat.sub_sub, Nat.reduceAdd]
  split_ifs with h
  all_goals first
    | omega
    | rfl
    | exact decide_eq_decide.2 (by omega)
    | rw [timeLowLo12, getLsbD_slice lo h, Nat.zero_add]
    | rw [timeLowHi20, getLsbD_slice lo (by assumption), show 12 + (i - 16) = i - 4 by omega]

/-- Bit `i` of a word assembled by the standard layout (R59). -/
theorem getLsbD_asmStd (hi : BitVec 12) (mid : BitVec 16) (lo : BitVec 32) (i : Nat) :
    (asmStd hi mid lo).getLsbD i =
      if i < 12 then hi.getLsbD i
      else if i < 16 then decide (i = 12)
      else if i < 32 then mid.getLsbD (i - 16)
      else lo.getLsbD (i - 32) := by
  have h₁ := BitVec.getLsbD_append (x := lo ++ mid ++ requiredVersion) (y := hi) (i := i)
  have h₂ := BitVec.getLsbD_append (x := lo ++ mid) (y := requiredVersion) (i := i - 12)
  have h₃ := BitVec.getLsbD_append (x := lo) (y := mid) (i := i - 12 - 4)
  refine h₁.trans ?_
  rw [h₂, h₃, getLsbD_requiredVersion]
  simp only [Nat.sub_sub, Nat.reduceAdd]
  split_ifs
  all_goals first
    | omega
    | rfl
    | exact decide_eq_decide.2 (by omega)

/-- Bit `i` of `time_low` put together from the two parts the sortable layout keeps apart (R57). -/
theorem getLsbD_joinTimeLow (hi : BitVec 20) (lo : BitVec 12) (i : Nat) :
    (hi ++ lo).getLsbD i = if i < 12 then lo.getLsbD i else hi.getLsbD (i - 12) := BitVec.getLsbD_append

/-- Bit `i` of the word TOSORTABLE makes. -/
theorem getLsbD_toSortableHigh (h : Word) {i : Nat} (hi : i < 64) :
    (toSortableHigh h).getLsbD i =
      if i < 12 then h.getLsbD (i + 32)
      else if i < 16 then decide (i = 12)
      else if i < 36 then h.getLsbD (i + 28)
      else if i < 52 then h.getLsbD (i - 20)
      else h.getLsbD (i - 52) := by
  rw [toSortableHigh, getLsbD_asmSrt]
  simp only [stdFields]
  split_ifs
  · rw [getLsbD_slice h (by omega), Nat.add_comm]
  · rfl
  · rw [getLsbD_slice h (by omega), show 32 + (i - 4) = i + 28 by omega]
  · rw [getLsbD_slice h (by omega), show 16 + (i - 36) = i - 20 by omega]
  · rw [getLsbD_slice h (by omega), Nat.zero_add]

/-- Bit `i` of the word TOSTANDARD makes. -/
theorem getLsbD_toStandardHigh (h : Word) {i : Nat} (hi : i < 64) :
    (toStandardHigh h).getLsbD i =
      if i < 12 then h.getLsbD (i + 52)
      else if i < 16 then decide (i = 12)
      else if i < 32 then h.getLsbD (i + 20)
      else if i < 44 then h.getLsbD (i - 32)
      else h.getLsbD (i - 28) := by
  rw [toStandardHigh, getLsbD_asmStd, getLsbD_joinTimeLow]
  simp only [srtFields]
  split_ifs
  all_goals first
    | omega
    | rfl
    | rw [getLsbD_slice h (by omega), show 52 + i = i + 52 by omega]
    | rw [getLsbD_slice h (by omega), show 36 + (i - 16) = i + 20 by omega]
    | rw [getLsbD_slice h (by omega), show 0 + (i - 32) = i - 32 by omega]
    | rw [getLsbD_slice h (by omega), show 16 + (i - 32 - 12) = i - 28 by omega]

/-- Bit `i` of the `high` word of a bound. -/
theorem getLsbD_lowestBoundHigh (t : Word) {i : Nat} (hi : i < 64) :
    (lowestBoundHigh t).getLsbD i =
      if i < 12 then t.getLsbD i else if i < 16 then decide (i = 12) else t.getLsbD (i - 4) := by
  have h₁ := BitVec.getLsbD_append (x := t.extractLsb' 12 48 ++ requiredVersion) (y := t.extractLsb' 0 12) (i := i)
  have h₂ := BitVec.getLsbD_append (x := t.extractLsb' 12 48) (y := requiredVersion) (i := i - 12)
  refine h₁.trans ?_
  rw [h₂, getLsbD_requiredVersion]
  simp only [Nat.sub_sub, Nat.reduceAdd]
  split_ifs
  all_goals first
    | omega
    | exact decide_eq_decide.2 (by omega)
    | rw [getLsbD_slice t (by omega), show 0 + i = i by omega]
    | rw [getLsbD_slice t (by omega), show 12 + (i - 16) = i - 4 by omega]

/-- Bit `i` of the counter of a standard-layout word (R19). -/
theorem getLsbD_counterStd (h : Word) {i : Nat} (hi : i < 60) :
    (counterStd h).getLsbD i =
      if i < 32 then h.getLsbD (i + 32) else if i < 48 then h.getLsbD (i - 16) else h.getLsbD (i - 48) := by
  have h₁ := BitVec.getLsbD_append (x := h.extractLsb' 0 12 ++ h.extractLsb' 16 16) (y := h.extractLsb' 32 32) (i := i)
  have h₂ := BitVec.getLsbD_append (x := h.extractLsb' 0 12) (y := h.extractLsb' 16 16) (i := i - 32)
  refine h₁.trans ?_
  rw [h₂]
  simp only [Nat.sub_sub, Nat.reduceAdd]
  split_ifs
  all_goals first
    | omega
    | rw [getLsbD_slice h (by omega), show 32 + i = i + 32 by omega]
    | rw [getLsbD_slice h (by omega), show 16 + (i - 32) = i - 16 by omega]
    | rw [getLsbD_slice h (by omega), show 0 + (i - 48) = i - 48 by omega]

/-- Bit `i` of the counter of a sortable-layout word (R19). -/
theorem getLsbD_counterSrt (h : Word) {i : Nat} (hi : i < 60) :
    (counterSrt h).getLsbD i = if i < 12 then h.getLsbD i else h.getLsbD (i + 4) := by
  have h₁ := BitVec.getLsbD_append (x := h.extractLsb' 52 12 ++ h.extractLsb' 36 16 ++ h.extractLsb' 16 20)
    (y := h.extractLsb' 0 12) (i := i)
  have h₂ := BitVec.getLsbD_append (x := h.extractLsb' 52 12 ++ h.extractLsb' 36 16) (y := h.extractLsb' 16 20)
    (i := i - 12)
  have h₃ := BitVec.getLsbD_append (x := h.extractLsb' 52 12) (y := h.extractLsb' 36 16) (i := i - 12 - 20)
  refine h₁.trans ?_
  rw [h₂, h₃]
  simp only [Nat.sub_sub, Nat.reduceAdd]
  split_ifs
  all_goals first
    | omega
    | rw [getLsbD_slice h (by omega), show 0 + i = i by omega]
    | rw [getLsbD_slice h (by omega), show 16 + (i - 12) = i + 4 by omega]
    | rw [getLsbD_slice h (by omega), show 36 + (i - 32) = i + 4 by omega]
    | rw [getLsbD_slice h (by omega), show 52 + (i - 48) = i + 4 by omega]

/-- Bit `i` of the version nibble. -/
theorem getLsbD_versionNibble (h : Word) {i : Nat} (hi : i < 4) : (versionNibble h).getLsbD i = h.getLsbD (12 + i) :=
  getLsbD_slice h hi

/-- A word is version 1 exactly when its bit 12 is set and bits 13, 14, 15 are clear. -/
theorem versionOne_iff_bits (h : Word) : VersionOne h ↔ ∀ i, 12 ≤ i → i < 16 → h.getLsbD i = decide (i = 12) := by
  constructor
  · intro hv i h₁ h₂
    have hb := congrArg (fun v : Nibble => v.getLsbD (i - 12)) hv
    simp only [getLsbD_versionNibble h (show i - 12 < 4 by omega), show 12 + (i - 12) = i by omega] at hb
    exact hb.trans ((getLsbD_requiredVersion (i - 12)).trans (decide_eq_decide.2 (by omega)))
  · intro hb
    apply BitVec.eq_of_getLsbD_eq
    intro i hi
    rw [getLsbD_versionNibble h hi, hb (12 + i) (by omega) (by omega)]
    exact (decide_eq_decide.2 (by omega)).trans (getLsbD_requiredVersion i).symm

end Sys2Proof.Machine
end

