-- ==== Sys2Proof/Laws/Decode.lean ====
section
/-! SUPPORT. Laws/Decode.lean: the fields of a command word and the command of each operation select. -/

namespace Sys2Proof

/-- Bit `i` of a command word: `b` below 64, then `a`, then `op` (R43). -/
theorem getLsbD_commandWord (op : OpSel) (a b : Word) (i : Nat) :
    (commandWord op a b).getLsbD i =
      if i < 64 then b.getLsbD i else if i < 128 then a.getLsbD (i - 64) else op.getLsbD (i - 128) := by
  have h₁ := BitVec.getLsbD_append (x := op ++ a) (y := b) (i := i)
  have h₂ := BitVec.getLsbD_append (x := op) (y := a) (i := i - 64)
  have h₃ : i - 64 < 64 ↔ i < 128 := by omega
  refine h₁.trans ?_
  rw [h₂, Nat.sub_sub]
  simp only [h₃]

theorem opField_commandWord (op : OpSel) (a b : Word) : opField (commandWord op a b) = op := by
  apply BitVec.eq_of_getLsbD_eq
  intro i hi
  have h₁ : ¬ 128 + i < 64 := by omega
  simp [opField, getLsbD_commandWord, hi, h₁]

theorem aField_commandWord (op : OpSel) (a b : Word) : aField (commandWord op a b) = a := by
  apply BitVec.eq_of_getLsbD_eq
  intro i hi
  have h₁ : ¬ 128 ≤ 64 + i := by omega
  simp [aField, getLsbD_commandWord, hi, h₁]

theorem bField_commandWord (op : OpSel) (a b : Word) : bField (commandWord op a b) = b := by
  apply BitVec.eq_of_getLsbD_eq
  intro i hi
  simp [bField, getLsbD_commandWord, hi]

/-- A command word is put together from its three fields. -/
theorem commandWord_fields (w : CommandWord) : commandWord (opField w) (aField w) (bField w) = w := by
  apply BitVec.eq_of_getLsbD_eq
  intro i hi
  rw [getLsbD_commandWord]
  simp only [opField, aField, bField, BitVec.getLsbD_extractLsb']
  split_ifs with h₁ h₂
  · simp [h₁]
  · rw [show 64 + (i - 64) = i by omega, decide_eq_true (show i - 64 < 64 by omega), Bool.true_and]
  · rw [show 128 + (i - 128) = i by omega, decide_eq_true (show i - 128 < 2 by omega), Bool.true_and]

/-- The decoder reads an operation select and two operands from the word that carries them. -/
theorem decode_commandWord (op : OpSel) (a b : Word) : decode (commandWord op a b) = commandOf op a b := by
  rw [decode, opField_commandWord, aField_commandWord, bField_commandWord]

theorem commandOf_toSortable (a b : Word) : commandOf opToSortable a b = .toSortable a b := rfl
theorem commandOf_toStandard (a b : Word) : commandOf opToStandard a b = .toStandard a b := rfl
theorem commandOf_lowestBound (a b : Word) : commandOf opLowestBound a b = .lowestBound a b := rfl
theorem commandOf_vguard (a b : Word) : commandOf opVguard a b = .vguard a b := rfl

/-- A command is selected by its own operation select. -/
theorem commandOf_fields (i : Instr) : commandOf i.op i.a i.b = i := by cases i <;> rfl

/-- Each operation select is one of the four codes (R40). -/
theorem opSel_cases (op : OpSel) : op = opToSortable ∨ op = opToStandard ∨ op = opLowestBound ∨ op = opVguard := by
  revert op; decide

/-- A number decodes as the command word of its bits, or is rejected as too wide. -/
theorem decodeNat_cases (w : Nat) :
    (w < 2 ^ 130 ∧ decodeNat w = .ok (decode (BitVec.ofNat 130 w))) ∨
    (2 ^ 130 ≤ w ∧ decodeNat w = .error .tooWide) := by
  by_cases h : w < 2 ^ 130
  · exact .inl ⟨h, if_pos (decide_eq_true h)⟩
  · exact .inr ⟨Nat.le_of_not_lt h, if_neg (by rw [commandWordFits, decide_eq_false h]; exact Bool.false_ne_true)⟩

end Sys2Proof
end

