-- ==== Sys2Proof/Laws/State.lean ====
section
/-! SUPPORT. Laws/State.lean: one lemma per port per update, so that no proof unfolds a record update, and what the outputs
show after each. -/

namespace Sys2Proof.Machine

section hold
variable (s : State) (op op' : OpSel) (a a' b b' : Word)

@[simp] theorem hold_op : (s.hold op a b).op = op := rfl
@[simp] theorem hold_a : (s.hold op a b).a = a := rfl
@[simp] theorem hold_b : (s.hold op a b).b = b := rfl
@[simp] theorem hold_hold : (s.hold op a b).hold op' a' b' = s.hold op' a' b' := rfl
@[simp] theorem hold_own_ports : s.hold s.op s.a s.b = s := rfl

/-- What stood on the ports before leaves no trace (R13). -/
theorem hold_eq (s t : State) : s.hold op a b = t.hold op a b := rfl

theorem command_hold : (s.hold op a b).command = commandOf op a b := rfl
theorem response_hold : (s.hold op a b).response = respond (commandOf op a b) := rfl

end hold

section present
variable (s : State) (w : CommandWord) (i : Instr)

@[simp] theorem presentWord_op : (s.presentWord w).op = opField w := rfl
@[simp] theorem presentWord_a : (s.presentWord w).a = aField w := rfl
@[simp] theorem presentWord_b : (s.presentWord w).b = bField w := rfl

/-- The word on the ports is the word the host presented. -/
theorem commandOnPorts_presentWord : commandOnPorts (s.presentWord w) = w := commandWord_fields w

/-- The outputs follow a presented word at once (R29). -/
theorem response_presentWord : (s.presentWord w).response = respond (decode w) := rfl

/-- Presenting a command is holding its fields on the inputs. -/
theorem present_eq_hold : s.present i = s.hold i.op i.a i.b := by
  rw [State.present, State.presentWord, encode, opField_commandWord, aField_commandWord, bField_commandWord]

theorem command_present : (s.present i).command = i := by
  rw [present_eq_hold]
  exact commandOf_fields i

/-- The outputs follow a presented command at once (R29). -/
theorem response_present : (s.present i).response = respond i := congrArg respond (command_present s i)

end present

section response
variable (s : State)

@[simp] theorem response_status : s.response.status = s.status := rfl
@[simp] theorem response_outHigh : s.response.outHigh = s.outHigh := rfl
@[simp] theorem response_outLow : s.response.outLow = s.outLow := rfl
@[simp] theorem response_errInfo : s.response.errInfo = s.errInfo := rfl

theorem status_eq : s.status = statusOf (resultOf s.command) := rfl
theorem outHigh_eq : s.outHigh = highOf (resultOf s.command) := rfl
theorem outLow_eq : s.outLow = lowOf (resultOf s.command) := rfl
theorem errInfo_eq : s.errInfo = payloadOf (resultOf s.command) := rfl

end response

/-- The inputs are all there is: two states with the same command on them are the same state. -/
theorem state_ext_ports {s t : State} (hop : s.op = t.op) (ha : s.a = t.a) (hb : s.b = t.b) : s = t := by
  cases s; cases t
  simp_all

/-- The decoder reads from the ports the command that `op` selects. -/
theorem decode_commandOnPorts (s : State) : decode (commandOnPorts s) = s.command := decode_commandWord _ _ _

end Sys2Proof.Machine
end

