-- ==== Sys2Proof/Laws/Exec.lean ====
section
/-! SUPPORT. Laws/Exec.lean: once for each shared operation, everything it can do. Later proofs cite these instead of
unfolding the guard, the range check, `exec` or `step`. -/

namespace Sys2Proof.Machine

theorem versionGuard_pass {h : Word} (hv : VersionOne h) : versionGuard h = .pass := if_pos hv

theorem versionGuard_fail {h : Word} (hv : ¬ VersionOne h) : versionGuard h = .fail (versionNibble h) := if_neg hv

theorem guarded_pass {x : Identifier} (r : Result) (hv : VersionOne x.high) : guarded x r = r := by
  rw [guarded, versionGuard_pass hv]

theorem guarded_fail {x : Identifier} (r : Result) (hv : ¬ VersionOne x.high) :
    guarded x r = .invalidVersion (versionNibble x.high) := by
  rw [guarded, versionGuard_fail hv]

section results
variable {a b : Word}

theorem toSortableResult_ok (hv : VersionOne a) : toSortableResult a b = .ok (toSortableHigh a) b := guarded_pass _ hv

theorem toSortableResult_fail (hv : ¬ VersionOne a) : toSortableResult a b = .invalidVersion (versionNibble a) :=
  guarded_fail _ hv

theorem toStandardResult_ok (hv : VersionOne a) : toStandardResult a b = .ok (toStandardHigh a) b := guarded_pass _ hv

theorem toStandardResult_fail (hv : ¬ VersionOne a) : toStandardResult a b = .invalidVersion (versionNibble a) :=
  guarded_fail _ hv

theorem vguardResult_ok (hv : VersionOne a) : vguardResult a b = .ok a b := guarded_pass _ hv

theorem vguardResult_fail (hv : ¬ VersionOne a) : vguardResult a b = .invalidVersion (versionNibble a) :=
  guarded_fail _ hv

/-- The range check in terms of the tick count as a number. -/
theorem gt_maxCounter_iff (t : Word) : t > maxCounter ↔ 2 ^ 60 ≤ t.toNat := by
  show maxCounter.toNat < t.toNat ↔ _
  simp only [maxCounter, BitVec.toNat_ofNat]
  omega

theorem lowestBoundResult_ok (ht : a.toNat < 2 ^ 60) : lowestBoundResult a b = .ok (lowestBoundHigh a) variantLow :=
  if_neg fun h => by have := (gt_maxCounter_iff a).1 h; omega

theorem lowestBoundResult_fail (ht : 2 ^ 60 ≤ a.toNat) : lowestBoundResult a b = .outOfRange a :=
  if_pos ((gt_maxCounter_iff a).2 ht)

end results

/-- The whole of what `exec` can do: hold the command on the inputs, whatever stood there before. -/
theorem exec_eq_hold (i : Instr) (s : State) : exec i s = .next (s.hold i.op i.a i.b) := by
  cases i <;> rfl

/-- Running a command is what presenting it is. -/
theorem exec_eq_present (i : Instr) (s : State) : exec i s = .next (s.present i) := by
  rw [exec_eq_hold, present_eq_hold]

/-- The whole of what a step can do: nothing is left behind, since the block has no state (R13). -/
theorem step_eq_self (s : State) : step s = .next s := by
  rw [step, decode_commandOnPorts, exec_eq_hold]
  obtain ⟨op, a, b⟩ := s
  rcases opSel_cases op with rfl | rfl | rfl | rfl <;> rfl

/-- Inversion of `exec`: there is one next state. -/
theorem exec_next_eq {i : Instr} {s t : State} (h : exec i s = .next t) : t = s.hold i.op i.a i.b := by
  rw [exec_eq_hold] at h
  injection h with h
  exact h.symm

/-- A command with a known result completes, and the four outputs show that result. -/
theorem exec_answers (i : Instr) (s : State) {r : Result} (h : resultOf i = r) :
    ∃ t, exec i s = .next t ∧ t.status = statusOf r ∧ t.outHigh = highOf r ∧ t.outLow = lowOf r ∧
      t.errInfo = payloadOf r ∧ t.response = responseOf r := by
  have hr : (s.hold i.op i.a i.b).response = responseOf r := by rw [response_hold, commandOf_fields, respond, h]
  exact ⟨_, exec_eq_hold i s, congrArg Response.status hr, congrArg Response.outHigh hr, congrArg Response.outLow hr,
    congrArg Response.errInfo hr, hr⟩

/-- What the outputs show once a command has run. -/
theorem exec_next_response {i : Instr} {s t : State} (h : exec i s = .next t) : t.response = respond i := by
  rw [exec_next_eq h, response_hold, commandOf_fields]

/-- Inversion of `step`: there is one next state. -/
theorem step_next_eq {s t : State} (h : step s = .next t) : t = s := by
  rw [step_eq_self] at h
  injection h with h
  exact h.symm

end Sys2Proof.Machine
end

