-- ==== Sys2Proof/Laws/PerInstr.lean ====
section
/-! SUPPORT. Laws/PerInstr.lean: facts said once per command. Family `TableRow`: a command's word is selected by its row of
the operation table, `CMD & MASK = MATCH` (R43), and the command is well formed (R48). -/

namespace Sys2Proof.Laws.TableRow

/-- The row of the operation table selects the command's word, and nothing is asked of its operands. -/
def Statement (i : Instr) : Prop := encode i &&& rowMask = rowMatch i.op ∧ i.wellFormed = true

/-- Masking a command word leaves its operation select in place and nothing else. -/
theorem commandWord_and_rowMask (op : OpSel) (a b : Word) : commandWord op a b &&& rowMask = rowMatch op := by
  apply BitVec.eq_of_getLsbD_eq
  intro i hi
  rw [BitVec.getLsbD_and, getLsbD_commandWord]
  simp only [rowMask, rowMatch, BitVec.getLsbD_shiftLeft, BitVec.getLsbD_setWidth]
  by_cases h : i < 128
  · simp [h]
  · obtain rfl | rfl : i = 128 ∨ i = 129 := by omega
    all_goals simp

theorem toSortable (a b : Word) : Statement (.toSortable a b) := ⟨commandWord_and_rowMask _ a b, rfl⟩
theorem toStandard (a b : Word) : Statement (.toStandard a b) := ⟨commandWord_and_rowMask _ a b, rfl⟩
theorem lowestBound (a b : Word) : Statement (.lowestBound a b) := ⟨commandWord_and_rowMask _ a b, rfl⟩
theorem vguard (a b : Word) : Statement (.vguard a b) := ⟨commandWord_and_rowMask _ a b, rfl⟩

end Sys2Proof.Laws.TableRow
end

