-- ==== Sys2Proof/Laws/Values.lean ====
section
/-! SUPPORT. Laws/Values.lean: the words as numbers. A version-1 word and its counter determine each other by the arithmetic
the spec's sorting argument uses. -/

namespace Sys2Proof.Machine

/-- A concatenation as a number. -/
theorem toNat_join {n m : Nat} (x : BitVec n) (y : BitVec m) : (x ++ y).toNat = x.toNat * 2 ^ m + y.toNat := by
  rw [BitVec.toNat_append, ← Nat.shiftLeft_add_eq_or_of_lt y.isLt, Nat.shiftLeft_eq]

/-- A slice as a number. -/
theorem toNat_slice {n : Nat} (x : BitVec n) (start len : Nat) :
    (x.extractLsb' start len).toNat = x.toNat / 2 ^ start % 2 ^ len := by
  rw [BitVec.extractLsb'_toNat, Nat.shiftRight_eq_div_pow]

theorem versionOne_iff_toNat (h : Word) : VersionOne h ↔ h.toNat / 2 ^ 12 % 2 ^ 4 = 1 := by
  rw [← toNat_slice h 12 4]
  exact BitVec.toNat_inj.symm

/-- The counter of a sortable-layout word, as a number. -/
theorem toNat_counterSrt (h : Word) : (counterSrt h).toNat = h.toNat / 2 ^ 16 * 2 ^ 12 + h.toNat % 2 ^ 12 := by
  have h₁ := toNat_join (h.extractLsb' 52 12 ++ h.extractLsb' 36 16 ++ h.extractLsb' 16 20) (h.extractLsb' 0 12)
  have h₂ := toNat_join (h.extractLsb' 52 12 ++ h.extractLsb' 36 16) (h.extractLsb' 16 20)
  have h₃ := toNat_join (h.extractLsb' 52 12) (h.extractLsb' 36 16)
  have := h.isLt
  refine h₁.trans ?_
  rw [h₂, h₃, toNat_slice, toNat_slice, toNat_slice, toNat_slice]
  omega

/-- A version-1 word, as a number, from its sortable-layout counter. -/
theorem toNat_of_versionOne {h : Word} (hv : VersionOne h) :
    h.toNat = (counterSrt h).toNat / 2 ^ 12 * 2 ^ 16 + 2 ^ 12 + (counterSrt h).toNat % 2 ^ 12 := by
  have := (versionOne_iff_toNat h).1 hv
  rw [toNat_counterSrt]
  omega

/-- The `high` word of a bound, as a number, for a tick count in range. -/
theorem toNat_lowestBoundHigh {t : Word} (ht : t.toNat < 2 ^ 60) :
    (lowestBoundHigh t).toNat = t.toNat / 2 ^ 12 * 2 ^ 16 + 2 ^ 12 + t.toNat % 2 ^ 12 := by
  have h₁ := toNat_join (t.extractLsb' 12 48 ++ requiredVersion) (t.extractLsb' 0 12)
  have h₂ := toNat_join (t.extractLsb' 12 48) requiredVersion
  have h₃ : requiredVersion.toNat = 1 := rfl
  refine h₁.trans ?_
  rw [h₂, toNat_slice, toNat_slice, h₃]
  omega

end Sys2Proof.Machine
end

