-- ==== Sys2Proof/Machine/WrittenForm.lean ====
section
/-! DEFINITION. Machine/WrittenForm.lean: the one-line written form of a command and of its response, used by the spec's
test vectors only (R52). It is notation: no operation reads or writes text. -/

namespace Sys2Proof.Machine

/-- A word as a hexadecimal literal of 16 digits (R52). -/
def hexWord (w : Word) : String :=
  "0x" ++ String.ofList ((List.range 16).map fun k => Nat.digitChar (w.toNat / 16 ^ (15 - k) % 16))

/-- The mnemonic of a command (R40, R52). -/
def mnemonic : Instr → String
  | .toSortable _ _ => "TOSORTABLE"
  | .toStandard _ _ => "TOSTANDARD"
  | .lowestBound _ _ => "LOWESTBOUND"
  | .vguard _ _ => "VGUARD"

/-- A command on one line: mnemonic, then operands (R52). -/
def commandLine (i : Instr) : String := mnemonic i ++ " " ++ hexWord i.a ++ ", " ++ hexWord i.b

/-- A response on one line; the observed version is printed in decimal (R52, 95_test_vectors.md). -/
def resultLine : Result → String
  | .ok h l => "OK " ++ hexWord h ++ ", " ++ hexWord l
  | .invalidVersion v => "INVALID_VERSION " ++ toString v.toNat
  | .outOfRange t => "OUT_OF_RANGE " ++ hexWord t

/-- A test vector's line: the command, then `=>`, then the response (R52). -/
def vectorLine (i : Instr) : String := commandLine i ++ " => " ++ resultLine (resultOf i)

end Sys2Proof.Machine
end

