-- ==== Sys2Proof/Tests/Slice0.lean ====
section
/-! SUPPORT. Tests/Slice0.lean: small tests. Every expected value is the spec's: its printed vectors (95_test_vectors.md),
its tables, or its widths. The theorems named `witness_…` meet the hypotheses of the statements together, at boundary
values. -/

namespace Sys2Proof.Tests

open Sys2Proof Sys2Proof.Machine

/-- A block with a command on its inputs. -/
def ports (op : OpSel) (a b : Word) : State := { op := op, a := a, b := b }

/-- The response an outcome leaves, if it is a next state. -/
def responseAfter : Host.Outcome State Fault Refusal → Option Response
  | .next t => some t.response
  | .fault _ => none
  | .refused _ => none

/-! ### Form -/

theorem test_wellFormed_every_command : (Instr.vguard 0#64 0xFFFFFFFFFFFFFFFF#64).wellFormed = true := by decide
theorem test_commandWordFits_refuses : commandWordFits (2 ^ 130) = false := by decide
theorem test_commandWordFits_accepts : commandWordFits (2 ^ 130 - 1) = true := by decide
theorem test_result_refuses_version_one : resultWellFormed (.invalidVersion 1#4) = false := by decide
theorem test_result_refuses_tick_in_range : resultWellFormed (.outOfRange 0x0FFFFFFFFFFFFFFF#64) = false := by decide
theorem test_result_accepts : resultWellFormed (.outOfRange 0x1000000000000000#64) = true := by decide
theorem test_widths : Config.wOp + Config.wWord + Config.wWord = 130 ∧ Config.wId = Config.wWord + Config.wWord ∧
    Config.wTimeHi + Config.wTimeMid + Config.wTimeLow = Config.wCounter ∧
    Config.wCounter + Config.wVersion = Config.wWord := by decide
theorem test_types_have_the_widths : Word = BitVec Config.wWord ∧ Word = BitVec Config.wTickIn ∧ Word = BitVec Config.wErr ∧
    Counter = BitVec Config.wCounter ∧ Nibble = BitVec Config.wVersion ∧ OpSel = BitVec Config.wOp ∧
    Status = BitVec Config.wStatus := ⟨rfl, rfl, rfl, rfl, rfl, rfl, rfl⟩

/-! ### Decoding: words the spec prints (95_test_vectors.md, S1, S2, P3 step 5, P1 step 1) -/

theorem test_decode_toSortable :
    decode 0x00d0b40f8e96511e888b6ac7ba1c62b04#130 = .toSortable 0x0d0b40f8e96511e8#64 0x88b6ac7ba1c62b04#64 := by decide
theorem test_decode_toStandard :
    decode 0x11e8e9650d0b410f888b6ac7ba1c62b04#130 = .toStandard 0x1e8e9650d0b410f8#64 0x88b6ac7ba1c62b04#64 := by decide
theorem test_decode_lowestBound :
    decode 0x210000000000000000000000000000000#130 = .lowestBound 0x1000000000000000#64 0#64 := by decide
theorem test_decode_vguard :
    decode 0x30d0b40f8e96511e888b6ac7ba1c62b04#130 = .vguard 0x0d0b40f8e96511e8#64 0x88b6ac7ba1c62b04#64 := by decide
theorem test_encode_vguard :
    encode (.vguard 0x0d0b40f8e96511e8#64 0x88b6ac7ba1c62b04#64) = 0x30d0b40f8e96511e888b6ac7ba1c62b04#130 := by decide
theorem test_decodeTableWord : decodeTableWord 136 0x11e8e9650d0b410f888b6ac7ba1c62b04 =
    some (.toStandard 0x1e8e9650d0b410f8#64 0x88b6ac7ba1c62b04#64) := by decide
theorem test_decodeTableWord_too_wide : decodeTableWord 136 (2 ^ 130) = none := by decide
/-- The rows' match and mask as opcode_table.json prints them. -/
theorem test_rows : rowMask = 0x300000000000000000000000000000000#130 ∧
    rowMatch opLowestBound = 0x200000000000000000000000000000000#130 := by decide
theorem test_rows_do_not_overlap : [opToSortable, opToStandard, opLowestBound, opVguard].Nodup := by decide

/-! ### Operations: the spec's vectors, one step each -/

/-- S1. -/
theorem test_toSortable_example : responseAfter (step (ports 0#2 0x0d0b40f8e96511e8#64 0x88b6ac7ba1c62b04#64)) =
    some ⟨0#2, 0x1e8e9650d0b410f8#64, 0x88b6ac7ba1c62b04#64, 0#64⟩ := by decide
/-- C1, distinct digits. -/
theorem test_toSortable_digits : responseAfter (step (ports 0#2 0x0123456789ab1cde#64 0xfedcba9876543210#64)) =
    some ⟨0#2, 0xcde89ab012341567#64, 0xfedcba9876543210#64, 0#64⟩ := by decide
/-- S2. -/
theorem test_toStandard_example : responseAfter (step (ports 1#2 0x1e8e9650d0b410f8#64 0x88b6ac7ba1c62b04#64)) =
    some ⟨0#2, 0x0d0b40f8e96511e8#64, 0x88b6ac7ba1c62b04#64, 0#64⟩ := by decide
/-- V2, `N = 15`: rejected, with nothing of the identifier on the result words. -/
theorem test_toStandard_rejects : responseAfter (step (ports 1#2 0x1e8e9650d0b4f0f8#64 0x88b6ac7ba1c62b04#64)) =
    some ⟨1#2, 0#64, 0#64, 15#64⟩ := by decide
/-- B1, distinct digits. -/
theorem test_lowestBound_digits : responseAfter (step (ports 2#2 0x00123456789abcde#64 0#64)) =
    some ⟨0#2, 0x0123456789ab1cde#64, 0x8000000000000000#64, 0#64⟩ := by decide
/-- B2: must not be taken modulo 2^60. -/
theorem test_lowestBound_rejects : responseAfter (step (ports 2#2 0x1fffffffffffffff#64 0xFFFFFFFFFFFFFFFF#64)) =
    some ⟨2#2, 0#64, 0#64, 0x1fffffffffffffff#64⟩ := by decide
/-- V1 corner: only the nibble is examined. -/
theorem test_vguard_passes : responseAfter (step (ports 3#2 0x0000000000001000#64 0xffffffffffffffff#64)) =
    some ⟨0#2, 0x0000000000001000#64, 0xffffffffffffffff#64, 0#64⟩ := by decide
/-- V1 corner: `0001` one nibble lower does not count. -/
theorem test_vguard_rejects : responseAfter (step (ports 3#2 0x0000000000000100#64 0#64)) =
    some ⟨1#2, 0#64, 0#64, 0#64⟩ := by decide
/-- P3 step 2, as the response word it prints. -/
theorem test_responseWord : responseWord (respond (.toSortable 0x0d0b40f8e96541e8#64 0x88b6ac7ba1c62b04#64)) =
    0x1000000000000000000000000000000000000000000000004#194 := by decide
/-- S1's response as the word the spec prints. -/
theorem test_responseWord_ok : responseWord (respond (.toSortable 0x0d0b40f8e96511e8#64 0x88b6ac7ba1c62b04#64)) =
    0x01e8e9650d0b410f888b6ac7ba1c62b040000000000000000#194 := by decide
/-- B1 and R66: the shift and mask form on distinct digits. -/
theorem test_lowestBound_shift_form : lowestBoundHighShifted 0x00123456789abcde#64 = 0x0123456789ab1cde#64 := by decide
/-- I1: two and fourteen applications. -/
theorem test_toSortableTimes : toSortableTimes 2 0x0d0b40f8e96511e8#64 1#64 = .ok 0x0f8d0b41e8e91650#64 1#64 ∧
    toSortableTimes 14 0x0d0b40f8e96511e8#64 1#64 = .ok 0x8e9651e8b40f10d0#64 1#64 := by decide
/-- P3, steps 1 to 3 in one session: a failure leaves nothing behind. -/
theorem test_session : session State.reset [.toSortable 0x0d0b40f8e96511e8#64 0#64, .toSortable 0x0d0b40f8e96541e8#64 0#64,
    .toSortable 0x0d0b40f8e96511e8#64 0#64] = [⟨0#2, 0x1e8e9650d0b410f8#64, 0#64, 0#64⟩, ⟨1#2, 0#64, 0#64, 4#64⟩,
    ⟨0#2, 0x1e8e9650d0b410f8#64, 0#64, 0#64⟩] := by decide
/-- R32: the example's groups. -/
theorem test_textGroups : textGroups ⟨0x0d0b40f8e96511e8#64, 0x88b6ac7ba1c62b04#64⟩ =
    ⟨0x0d0b40f8#32, 0xe965#16, 0x11e8#16, 0x88b6#16, 0xac7ba1c62b04#48⟩ := by decide
/-- R80's example: the counter of the document's example. -/
theorem test_counterStd : counterStd 0x0d0b40f8e96511e8#64 = 0x1e8e9650d0b40f8#60 := by decide
/-- R52, R55: a vector as the spec writes it, and one that fails with a two-digit version. -/
theorem test_vectorLine : vectorLine (.vguard 0x0d0b40f8e965c1e8#64 0x88b6ac7ba1c62b04#64) =
    "VGUARD 0x0d0b40f8e965c1e8, 0x88b6ac7ba1c62b04 => INVALID_VERSION 12" := by decide
/-- R63: in each layout the masks are disjoint and complete. -/
theorem test_masks_partition :
    orOf [stdTimeLowMask, stdTimeMidMask, versionMask, stdTimeHiMask] = 0xFFFFFFFFFFFFFFFF#64 ∧
    sumOf [stdTimeLowMask, stdTimeMidMask, versionMask, stdTimeHiMask] = 2 ^ 64 - 1 ∧
    stdTimeLowHi20Mask ||| stdTimeLowLo12Mask = stdTimeLowMask ∧
    orOf [srtTimeHiMask, srtTimeMidMask, srtTimeLowHi20Mask, versionMask, srtTimeLowLo12Mask] = 0xFFFFFFFFFFFFFFFF#64 ∧
    sumOf [srtTimeHiMask, srtTimeMidMask, srtTimeLowHi20Mask, versionMask, srtTimeLowLo12Mask] = 2 ^ 64 - 1 ∧
    timestampMask = ~~~versionMask ∧ versionOneInPlace = (1#64) <<< versionShift := by decide
/-- R63: each shift amount is where its mask begins. -/
theorem test_shifts :
    stdTimeLowMask = (0xFFFFFFFF#64) <<< stdTimeLowShift ∧ stdTimeMidMask = (0xFFFF#64) <<< stdTimeMidShift ∧
    stdTimeHiMask = (0xFFF#64) <<< stdTimeHiShift ∧ srtTimeHiMask = (0xFFF#64) <<< srtTimeHiShift ∧
    srtTimeMidMask = (0xFFFF#64) <<< srtTimeMidShift ∧ srtTimeLowHi20Mask = (0xFFFFF#64) <<< srtTimeLowHi20Shift ∧
    srtTimeLowLo12Mask = (0xFFF#64) <<< srtTimeLowLo12Shift := by decide
/-- C3: rows 0, 31, 44 and 63 of the bit map. -/
theorem test_bit_map : toSortableTarget 0 = 52 ∧ toSortableTarget 31 = 51 ∧ toSortableTarget 44 = 16 ∧
    toSortableTarget 63 = 35 := by decide
/-- R29, R84: the outputs at power-up are the function of the inputs: a zero identifier has version 0. -/
theorem test_power_up : State.reset.response = ⟨1#2, 0#64, 0#64, 0#64⟩ := by decide
/-- R25: not latched. A failing command's outputs are gone as soon as the next command stands on the inputs, before any
step (P3 steps 2 and 3). -/
theorem test_outputs_are_not_latched :
    ((ports 0#2 0x0d0b40f8e96541e8#64 0#64).present (.toSortable 0x0d0b40f8e96511e8#64 0#64)).response =
      ⟨0#2, 0x1e8e9650d0b410f8#64, 0#64, 0#64⟩ := by decide
/-- A presented command is the very next one to run (P2 step 1). -/
theorem test_withFetchWord : responseAfter (step (State.reset.withFetchWord 136 0x201e8e9650d0b40f80000000000000000)) =
    some ⟨0#2, 0x1e8e9650d0b410f8#64, 0x8000000000000000#64, 0#64⟩ := by decide
/-- U7: a status of 3 is nobody's response. -/
theorem test_host_reads_status_three : hostReadsResult ⟨3#2, 0#64, 0#64, 0#64⟩ = .error .notThisBlock := by decide

/-! ### Witnesses of the statements' hypotheses -/

theorem witness_StepRunsTheCommandOnThePorts :
    decode (commandWord (ports 3#2 1#64 2#64).op (ports 3#2 1#64 2#64).a (ports 3#2 1#64 2#64).b) = .vguard 1#64 2#64 ∧
    (Instr.vguard 1#64 2#64).wellFormed = true := by decide
theorem witness_CommandWordFieldsAndSelection :
    (commandWord 0#2 1#64 2#64) &&& ((3#130) <<< 128) = (0#130) <<< 128 ∧
    (commandWord 1#2 1#64 2#64) &&& ((3#130) <<< 128) = (1#130) <<< 128 ∧
    (commandWord 2#2 1#64 2#64) &&& ((3#130) <<< 128) = (2#130) <<< 128 ∧
    (commandWord 3#2 1#64 2#64) &&& ((3#130) <<< 128) = (3#130) <<< 128 := by decide
theorem witness_OnlyWiderNumbersAreRefused : 2 ^ 130 - 1 < 2 ^ 136 ∧ 2 ^ 130 - 1 < 2 ^ 130 ∧ 2 ^ 130 < 2 ^ 136 := by decide
theorem witness_NextStepRunsThePresentedCommand : 0x300000000000000000000000000000000 < 2 ^ 130 ∧
    decodeTableWord 130 0x300000000000000000000000000000000 = some (.vguard 0#64 0#64) := by decide
/-- The clauses of the guarded operations: nibble 1, and the nibbles beside it. -/
theorem witness_guarded_clauses : (0x1000#64).extractLsb' 12 4 = 1#4 ∧ (0x0FFF#64).extractLsb' 12 4 ≠ 1#4 ∧
    (0x2000#64).extractLsb' 12 4 ≠ 1#4 := by decide
/-- The clauses of LOWESTBOUND meet at the maximum. -/
theorem witness_LowestBoundResponse : (0x0FFFFFFFFFFFFFFF#64).toNat ≤ 2 ^ 60 - 1 ∧
    2 ^ 60 - 1 < (0x1000000000000000#64).toNat := by decide
theorem witness_VersionGuardContract : (0xFFFF1000#64).extractLsb' 12 4 = (0x1FFF#64).extractLsb' 12 4 ∧
    versionGuard 0x0FFF#64 = .fail 0#4 := by decide
theorem witness_OperationsLeaveNothingElseBehind : exec (.toSortable 0x1000#64 9#64) (ports 3#2 1#64 2#64) =
    .next (ports 0#2 0x1000#64 9#64) ∧ decode (commandOnPorts (ports 3#2 1#64 2#64)) = .vguard 1#64 2#64 :=
  ⟨exec_eq_hold _ _, by decide⟩
theorem witness_EveryCommandHasOneResponse : (ports 2#2 1#64 2#64).op = State.op ⟨2#2, 1#64, 2#64⟩ ∧
    (ports 0#2 1#64 2#64).op = 0#2 ∧ (ports 1#2 1#64 2#64).op = 1#2 ∧ (ports 2#2 1#64 2#64).op = 2#2 ∧
    (ports 3#2 1#64 2#64).op = 3#2 := by decide
theorem witness_CommandsMayBeReordered :
    [Instr.vguard 1#64 2#64, Instr.lowestBound 3#64 4#64].Perm [Instr.lowestBound 3#64 4#64, Instr.vguard 1#64 2#64] :=
  List.Perm.swap _ _ _
/-- Both clauses: an instance the events name, more than once, and one they do not. -/
theorem witness_InstancesAreIndependent : [ports 0#2 1#64 2#64, ports 1#2 3#64 4#64][1]? = some (ports 1#2 3#64 4#64) ∧
    lastPresentedTo 1 [(1, .vguard 1#64 2#64), (0, .vguard 3#64 4#64), (1, .lowestBound 5#64 6#64)] =
      some (.lowestBound 5#64 6#64) ∧
    lastPresentedTo 1 [(0, .vguard 3#64 4#64)] = none ∧ (0 : Nat) ≠ 1 := by decide
theorem witness_OutputsFollowTheInputsAtEveryMoment : Settled (ports 2#2 0x1000000000000000#64 1#64) ∧
    step (ports 2#2 0x1000000000000000#64 1#64) = .next (ports 2#2 0x1000000000000000#64 1#64) :=
  ⟨by decide, step_eq_self _⟩
theorem witness_FailurePayloads : (0xF000#64).extractLsb' 12 4 ≠ 1#4 ∧ (0#64).extractLsb' 12 4 ≠ 1#4 ∧
    2 ^ 60 ≤ (0x1000000000000000#64).toNat ∧ 2 ^ 60 ≤ (0xFFFFFFFFFFFFFFFF#64).toNat := by decide
theorem witness_ImpossibleResponsesNeverOccur : step (ports 0#2 0#64 0#64) = .next (ports 0#2 0#64 0#64) ∧
    (ports 0#2 0#64 0#64).response = ⟨1#2, 0#64, 0#64, 0#64⟩ := ⟨step_eq_self _, by decide⟩
theorem witness_HostReadsResultsOnlyOnSuccess :
    hostReadsPayload (respond (.vguard 0#64 0#64)) = .ok 0#64 ∧
    hostReadsPayload (respond (.lowestBound 0x1000000000000000#64 0#64)) = .ok 0x1000000000000000#64 ∧
    resultOf (.vguard 0x1000#64 5#64) = .ok 0x1000#64 5#64 := by decide
/-- Version-1 words at both ends: what the statements about the codec and the layouts ask for. -/
theorem witness_versionOne : VersionOne 0x0000000000001000#64 ∧ VersionOne 0xFFFFFFFFFFFF1FFF#64 ∧
    ¬ VersionOne 0xFFFFFFFFFFFF2FFF#64 := by decide
theorem witness_VersionIsPreserved : exec (.vguard 0x1000#64 0#64) (ports 0#2 1#64 2#64) =
    .next (ports 3#2 0x1000#64 0#64) ∧ (ports 3#2 0x1000#64 0#64).status = 0#2 ∧ (0x1000#64).extractLsb' 12 4 = 1#4 :=
  ⟨exec_eq_hold _ _, by decide, by decide⟩
theorem witness_OtherVersionsAreRejected : (15#4) ≠ 1#4 ∧ (0xF000#64).extractLsb' 12 4 = 15#4 ∧
    (0xFFFFFFFFFFFFFFFF#64).extractLsb' 12 4 = 15#4 := by decide
theorem witness_LowIsCarriedThrough (f : Word → Word → Instr) (hf : f = Instr.vguard) :
    f = .toSortable ∨ f = .toStandard ∨ f = .vguard := .inr (.inr hf)
theorem witness_BoundAtTheMaximumAndBeyond : 2 ^ 60 ≤ (0x1000000000000000#64).toNat := by decide
theorem witness_CodecMovesBitsByTheTables : VersionOne 0x0123456789ab1cde#64 ∧ toSortableSource 12 = none ∧
    toSortableSource 11 = some 43 ∧ toSortableSource 16 = some 44 ∧ (11 < 12 ∨ 16 ≤ 11) ∧ (16 < 12 ∨ 16 ≤ 16) := by decide
theorem witness_OperandBitsUsed : (0#2) ≠ 2#2 ∧ (0x1000#64).extractLsb' 12 4 = (0xFFFF1FFF#64).extractLsb' 12 4 ∧
    (respond (.vguard 0x1000#64 0#64)).status = 0#2 := by decide
theorem witness_CounterIsCarriedExactly : VersionOne 0x1000#64 ∧ (0x0FFFFFFFFFFFFFFF#64).toNat < 2 ^ 60 := by decide
/-- O1: X and Y, by counter and by raw value; and a tie on the counter. -/
theorem witness_SortableOrderIsTimeOrder : VersionOne 0x1e8e9650d0b410f8#64 ∧ VersionOne 0x1e8e966000001001#64 ∧
    counterSrt 0x1e8e9650d0b410f8#64 < counterSrt 0x1e8e966000001001#64 ∧
    counterStd 0x0d0b40f8e96511e8#64 < counterStd 0x00000001e96611e8#64 ∧
    counterStd 0x0d0b40f8e96511e8#64 = counterStd 0x0d0b40f8e96511e8#64 := by decide
theorem witness_BoundIsTheSmallestOfItsTick : (0x01e8e9650d0b40f8#64).toNat < 2 ^ 60 ∧ VersionOne 0x1e8e9650d0b410f8#64 ∧
    counterSrt 0x1e8e9650d0b410f8#64 = (0x01e8e9650d0b40f8#64).setWidth 60 ∧
    (0x88b6ac7ba1c62b04#64).getLsbD 63 = true ∧
    (counterSrt 0x1e8e9650d0b410f7#64).toNat < (0x01e8e9650d0b40f8#64).toNat ∧ VersionOne 0x1e8e9650d0b410f7#64 := by decide
/-- P2: the identifier of step 3 carries the tick and that of step 5 does not. -/
theorem witness_RangeScanFindsExactlyOneTick : (0x01e8e9650d0b40f8#64).toNat + 1 < 2 ^ 60 ∧
    (0x0FFFFFFFFFFFFFFE#64).toNat + 1 < 2 ^ 60 ∧ VersionOne 0x0d0b40f8e96511e8#64 ∧ VersionOne 0x0d0b40f7e96511e8#64 ∧
    (0x88b6ac7ba1c62b04#64).getLsbD 63 = true ∧
    counterStd 0x0d0b40f8e96511e8#64 = (0x01e8e9650d0b40f8#64).setWidth 60 ∧
    counterStd 0x0d0b40f7e96511e8#64 ≠ (0x01e8e9650d0b40f8#64).setWidth 60 := by decide
/-- I1 and C1: a version-1 word that moves, and one that is fixed. -/
theorem witness_FifteenApplicationsReturnTheIdentifier : VersionOne 0x0d0b40f8e96511e8#64 ∧
    repeatedDigit 5#4 = 0x5555555555551555#64 ∧ VersionOne 0x5555555555551555#64 := by decide

end Sys2Proof.Tests
end

/-! ### O20: every operation gives exactly one well-formed result (R12) -/

namespace Sys2Proof.Machine

/-- Reading `status` first recovers the result from its port encoding (R45). -/
theorem resultRead_responseOf (r : Result) : resultRead (responseOf r) = some r := by
  cases r with
  | ok high low => rfl
  | invalidVersion observed => simp [resultRead, responseOf, statusOf, payloadOf, stOk, stInvalidVersion]
  | outOfRange offending => rfl

theorem responseOf_injective : Function.Injective responseOf := fun r r' h =>
  Option.some.inj <| (resultRead_responseOf r).symm.trans <| (congrArg resultRead h).trans (resultRead_responseOf r')

/-- The model's check of R12's side conditions, with the offending count as a number. -/
theorem resultWellFormed_iff (r : Result) :
    resultWellFormed r = true ↔
      (∀ v, r = .invalidVersion v → v ≠ 1#4) ∧ (∀ u, r = .outOfRange u → 2 ^ 60 - 1 < u.toNat) := by
  cases r with
  | ok high low => simp [resultWellFormed]
  | invalidVersion observed =>
    have hne : resultWellFormed (.invalidVersion observed) = true ↔ observed ≠ 1#4 := decide_eq_true_iff
    simp [hne]
  | outOfRange offending =>
    have hgt : resultWellFormed (.outOfRange offending) = true ↔ 2 ^ 60 ≤ offending.toNat :=
      decide_eq_true_iff.trans (gt_maxCounter_iff offending)
    simp [hgt, Nat.lt_iff_add_one_le]

/-- The guard reports a version only when that version is not 1. -/
theorem resultWellFormed_guarded (x : Identifier) {onPass : Result} (h : resultWellFormed onPass = true) :
    resultWellFormed (guarded x onPass) = true := by
  by_cases hv : VersionOne x.high
  · rw [guarded_pass _ hv, h]
  · rw [guarded_fail _ hv]
    exact decide_eq_true hv

/-- The range check reports a tick count only when it is above the maximum. -/
theorem resultWellFormed_lowestBoundResult (a b : Word) : resultWellFormed (lowestBoundResult a b) = true := by
  rcases Nat.lt_or_ge a.toNat (2 ^ 60) with h | h
  · rw [lowestBoundResult_ok h]; rfl
  · rw [lowestBoundResult_fail h]
    exact decide_eq_true ((gt_maxCounter_iff a).2 h)

theorem resultWellFormed_resultOf (i : Instr) : resultWellFormed (resultOf i) = true := by
  cases i with
  | toSortable a b => exact resultWellFormed_guarded _ rfl
  | toStandard a b => exact resultWellFormed_guarded _ rfl
  | lowestBound a b => exact resultWellFormed_lowestBoundResult a b
  | vguard a b => exact resultWellFormed_guarded _ rfl

/-- A result's port encoding is what the next state shows exactly when it is the command's result. -/
theorem exec_shows_iff (i : Instr) (s : State) (r : Result) :
    (∃ t, exec i s = .next t ∧ t.response = responseOf r) ↔ r = resultOf i := by
  constructor
  · rintro ⟨t, ht, hr⟩
    exact responseOf_injective (hr.symm.trans (exec_next_response ht))
  · rintro rfl
    exact ⟨_, exec_eq_present i s, response_present s i⟩

/-- Settles O20: the result is `resultOf i`; the guard and the range check keep the side conditions, and no other result
has its port encoding. -/
theorem everyOperationGivesOneWellFormedResult : Obligations.EveryOperationGivesOneWellFormedResult := by
  intro i s
  obtain ⟨hversion, hcount⟩ := (resultWellFormed_iff _).1 (resultWellFormed_resultOf i)
  refine ⟨resultOf i, ⟨hversion, hcount, (exec_shows_iff i s _).2 rfl⟩, ?_⟩
  rintro r ⟨-, -, hshows⟩
  exact (exec_shows_iff i s r).1 hshows

end Sys2Proof.Machine

/-! ### O15: a session's responses are those of its commands alone (R13) -/

namespace Sys2Proof.Machine

/-- One command of a session: its response is read, whatever the ports held, and the rest goes on from its ports. -/
theorem session_cons (s : State) (i : Instr) (rest : List Instr) :
    session s (i :: rest) = respond i :: session (s.present i) rest := by
  rw [session, step_eq_self]
  exact congrArg (· :: session (s.present i) rest) (response_present s i)

/-- Settles O15, by induction on the commands, from whatever state each is presented in. -/
theorem sessionsAreMemoryless : Obligations.SessionsAreMemoryless := by
  intro s commands
  induction commands generalizing s with
  | nil => rfl
  | cons i rest ih => rw [session_cons, ih, List.map_cons]

end Sys2Proof.Machine

/-! ### O33: the counter and its three parts (R18) -/

namespace Sys2Proof.Machine

/-- The three parts are adjacent slices, from the most significant bit down to bit 0. -/
theorem counter_eq_parts (c : Counter) : c = counterTimeHi c ++ counterTimeMid c ++ counterTimeLow c := by
  have hhigh : counterTimeHi c ++ counterTimeMid c = c.extractLsb' 32 28 :=
    BitVec.extractLsb'_append_extractLsb'_eq_extractLsb' rfl
  have hall : c.extractLsb' 32 28 ++ counterTimeLow c = c.extractLsb' 0 60 :=
    BitVec.extractLsb'_append_extractLsb'_eq_extractLsb' rfl
  rw [hhigh]
  exact (hall.trans BitVec.extractLsb'_eq_self).symm

/-- A counter put together from three parts, as a number. -/
theorem toNat_counter_of_parts (hi : BitVec 12) (mid : BitVec 16) (lo : BitVec 32) :
    (hi ++ mid ++ lo).toNat = hi.toNat * 2 ^ 48 + mid.toNat * 2 ^ 32 + lo.toNat := by
  rw [toNat_join, toNat_join]
  omega

/-- Settles O33: the parts are adjacent slices, and a concatenation is a sum of shifted parts. -/
theorem counterDecomposes : Obligations.CounterDecomposes := fun c =>
  ⟨counter_eq_parts c, (congrArg BitVec.toNat (counter_eq_parts c)).trans (toNat_counter_of_parts _ _ _)⟩

end Sys2Proof.Machine

/-! ### O31: in each layout a version-1 word and its counter determine each other (R21) -/

namespace Sys2Proof.Machine

/-- A slice above the last part of a concatenation is a slice of what stands before that part. -/
theorem slice_skip {v w len start start' : Nat} {x : BitVec v} (y : BitVec w) {part : BitVec len}
    (hstart : start = w + start') (hpart : x.extractLsb' start' len = part) : (x ++ y).extractLsb' start len = part := by
  rw [BitVec.extractLsb'_append_eq_of_le (by omega), hstart, Nat.add_sub_cancel_left, hpart]

section parts
variable (hi : BitVec 12) (mid : BitVec 16) (lo : BitVec 32)

/-! The parts of a counter, read back from their concatenation (R18). -/

theorem counterTimeHi_join : counterTimeHi (hi ++ mid ++ lo) = hi := slice_skip lo rfl BitVec.extractLsb'_append_eq_left

theorem counterTimeMid_join : counterTimeMid (hi ++ mid ++ lo) = mid := slice_skip lo rfl BitVec.extractLsb'_append_eq_right

theorem counterTimeLow_join : counterTimeLow (hi ++ mid ++ lo) = lo := BitVec.extractLsb'_append_eq_right

/-- The two parts the sortable layout keeps apart are the whole of `time_low`. -/
theorem timeLow_join : timeLowHi20 lo ++ timeLowLo12 lo = lo :=
  BitVec.extractLsb'_append_extractLsb' (w := 20) (len := 12)

/-- Extraction by the standard layout reads back what assembly wrote (R56, R59). -/
theorem stdFields_asmStd : stdFields (asmStd hi mid lo) = ⟨lo, mid, requiredVersion, hi⟩ := by
  have hlow : (asmStd hi mid lo).extractLsb' 32 32 = lo :=
    slice_skip hi rfl (slice_skip requiredVersion rfl BitVec.extractLsb'_append_eq_left)
  have hmid : (asmStd hi mid lo).extractLsb' 16 16 = mid :=
    slice_skip hi rfl (slice_skip requiredVersion rfl BitVec.extractLsb'_append_eq_right)
  have hversion : versionNibble (asmStd hi mid lo) = requiredVersion :=
    slice_skip hi rfl BitVec.extractLsb'_append_eq_right
  have hhi : (asmStd hi mid lo).extractLsb' 0 12 = hi := BitVec.extractLsb'_append_eq_right
  rw [stdFields, hlow, hmid, hversion, hhi]

/-- Extraction by the sortable layout reads back what assembly wrote (R57, R58). -/
theorem srtFields_asmSrt :
    srtFields (asmSrt hi mid lo) = ⟨hi, mid, timeLowHi20 lo, requiredVersion, timeLowLo12 lo⟩ := by
  have hhi : (asmSrt hi mid lo).extractLsb' 52 12 = hi :=
    slice_skip (timeLowLo12 lo) rfl (slice_skip requiredVersion rfl (slice_skip (timeLowHi20 lo) rfl
      BitVec.extractLsb'_append_eq_left))
  have hmid : (asmSrt hi mid lo).extractLsb' 36 16 = mid :=
    slice_skip (timeLowLo12 lo) rfl (slice_skip requiredVersion rfl (slice_skip (timeLowHi20 lo) rfl
      BitVec.extractLsb'_append_eq_right))
  have hlow : (asmSrt hi mid lo).extractLsb' 16 20 = timeLowHi20 lo :=
    slice_skip (timeLowLo12 lo) rfl (slice_skip requiredVersion rfl BitVec.extractLsb'_append_eq_right)
  have hversion : versionNibble (asmSrt hi mid lo) = requiredVersion :=
    slice_skip (timeLowLo12 lo) rfl BitVec.extractLsb'_append_eq_right
  have hlast : (asmSrt hi mid lo).extractLsb' 0 12 = timeLowLo12 lo := BitVec.extractLsb'_append_eq_right
  rw [srtFields, hhi, hmid, hlow, hversion, hlast]

theorem versionOne_asmStd : VersionOne (asmStd hi mid lo) := congrArg StdFields.version (stdFields_asmStd hi mid lo)

theorem versionOne_asmSrt : VersionOne (asmSrt hi mid lo) := congrArg SrtFields.version (srtFields_asmSrt hi mid lo)

end parts

/-! The counter of a word is its time fields, put together (R19). -/

theorem counterStd_eq_fields (h : Word) :
    counterStd h = (stdFields h).timeHi ++ (stdFields h).timeMid ++ (stdFields h).timeLow := rfl

theorem counterSrt_eq_fields (h : Word) : counterSrt h =
    (srtFields h).timeHi ++ (srtFields h).timeMid ++ ((srtFields h).timeLowHi20 ++ (srtFields h).timeLowLo12) :=
  BitVec.append_assoc

/-! An assembled word carries the counter of its parts. -/

theorem counterStd_asmStd (hi : BitVec 12) (mid : BitVec 16) (lo : BitVec 32) :
    counterStd (asmStd hi mid lo) = hi ++ mid ++ lo := by
  rw [counterStd_eq_fields, stdFields_asmStd]

theorem counterSrt_asmSrt (hi : BitVec 12) (mid : BitVec 16) (lo : BitVec 32) :
    counterSrt (asmSrt hi mid lo) = hi ++ mid ++ lo := by
  rw [counterSrt_eq_fields, srtFields_asmSrt, timeLow_join]

section versionOne
variable {h : Word} (hv : VersionOne h)
include hv

/-- A version-1 word is its standard-layout fields, put together: the four slices are adjacent. -/
theorem asmStd_stdFields : asmStd (stdFields h).timeHi (stdFields h).timeMid (stdFields h).timeLow = h := by
  have hmid : h.extractLsb' 32 32 ++ h.extractLsb' 16 16 = h.extractLsb' 16 48 :=
    BitVec.extractLsb'_append_extractLsb'_eq_extractLsb' rfl
  have hversion : h.extractLsb' 16 48 ++ versionNibble h = h.extractLsb' 12 52 :=
    BitVec.extractLsb'_append_extractLsb'_eq_extractLsb' rfl
  have hall : h.extractLsb' 12 52 ++ h.extractLsb' 0 12 = h.extractLsb' 0 64 :=
    BitVec.extractLsb'_append_extractLsb'_eq_extractLsb' rfl
  rw [asmStd, show requiredVersion = versionNibble h from hv.symm]
  dsimp only [stdFields]
  rw [hmid, hversion]
  exact hall.trans BitVec.extractLsb'_eq_self

/-- A version-1 word is the standard-layout word of its counter. -/
theorem asmStd_counterStd :
    asmStd (counterTimeHi (counterStd h)) (counterTimeMid (counterStd h)) (counterTimeLow (counterStd h)) = h := by
  rw [counterStd_eq_fields, counterTimeHi_join, counterTimeMid_join, counterTimeLow_join, asmStd_stdFields hv]

/-- A version-1 word is the sortable-layout word of its counter: both have it as their counter, and a version-1 word is
known from its counter (`toNat_of_versionOne`). -/
theorem asmSrt_counterSrt :
    asmSrt (counterTimeHi (counterSrt h)) (counterTimeMid (counterSrt h)) (counterTimeLow (counterSrt h)) = h := by
  apply BitVec.eq_of_toNat_eq
  rw [toNat_of_versionOne (versionOne_asmSrt _ _ _), counterSrt_asmSrt, ← counter_eq_parts, ← toNat_of_versionOne hv]

end versionOne

/-- Settles O31: layout by layout, reading the counter of a version-1 word and assembling a counter are inverse to each
other, since extraction and assembly of the fields are. -/
theorem layoutsPartitionTheWord : Obligations.LayoutsPartitionTheWord :=
  ⟨fun _ hv => ⟨asmStd_counterStd hv, asmSrt_counterSrt hv⟩,
    fun c => ⟨versionOne_asmStd _ _ _, versionOne_asmSrt _ _ _,
      (counterStd_asmStd _ _ _).trans (counter_eq_parts c).symm,
      (counterSrt_asmSrt _ _ _).trans (counter_eq_parts c).symm⟩⟩

end Sys2Proof.Machine

/-! ### O5: the fields of the command word, and selection by mask and match (R43) -/

namespace Sys2Proof

open Laws.TableRow (commandWord_and_rowMask)

/-- The four matches differ: each holds its operation select in the op field. -/
theorem opField_rowMatch (op : OpSel) : opField (rowMatch op) = op := by
  rcases opSel_cases op with rfl | rfl | rfl | rfl <;> rfl

/-- A row of the operation table selects exactly the words whose op field is its operation (R43). -/
theorem and_rowMask_eq_rowMatch_iff (w : CommandWord) (k : OpSel) : w &&& rowMask = rowMatch k ↔ opField w = k := by
  have hmasked : w &&& rowMask = rowMatch (opField w) := by
    have h := commandWord_and_rowMask (opField w) (aField w) (bField w)
    rwa [commandWord_fields] at h
  rw [hmasked]
  exact (Function.LeftInverse.injective opField_rowMatch).eq_iff

/-- The decoder follows the row that selects the word. -/
theorem decode_of_rowMatch {w : CommandWord} {k : OpSel} (h : w &&& rowMask = rowMatch k) :
    decode w = commandOf k (aField w) (bField w) := by
  rw [decode, (and_rowMask_eq_rowMatch_iff w k).1 h]

/-- Settles O5: a masked word is the match of its own op field, and the matches differ. -/
theorem commandWordFieldsAndSelection : Obligations.CommandWordFieldsAndSelection := by
  constructor
  · intro op a b
    refine ⟨opField_commandWord op a b, aField_commandWord op a b, bField_commandWord op a b, fun k => ?_⟩
    have hselect := and_rowMask_eq_rowMatch_iff (commandWord op a b) k
    rwa [opField_commandWord] at hselect
  · intro w
    exact ⟨decode_of_rowMatch (k := opToSortable), decode_of_rowMatch (k := opToStandard),
      decode_of_rowMatch (k := opLowestBound), decode_of_rowMatch (k := opVguard)⟩

end Sys2Proof

/-! ### O21 and O22: the port encoding of results (R45) and the response word (R44) -/

namespace Sys2Proof.Machine

/-- Settles O21: the table's rows are the definition of the encoding, and reading `status` first inverts it. -/
theorem resultEncodingIsInjective : Obligations.ResultEncodingIsInjective :=
  ⟨fun _ _ => rfl, fun _ => rfl, fun _ => rfl, fun _ _ h => responseOf_injective h, resultRead_responseOf⟩

/-- Settles O22: each field is read by skipping the parts that stand to its right. -/
theorem responseWordFields : Obligations.ResponseWordFields := fun r =>
  ⟨slice_skip r.errInfo rfl (slice_skip r.outLow rfl BitVec.extractLsb'_append_eq_left),
    slice_skip r.errInfo rfl (slice_skip r.outLow rfl BitVec.extractLsb'_append_eq_right),
    slice_skip r.errInfo rfl BitVec.extractLsb'_append_eq_right,
    BitVec.extractLsb'_append_eq_right⟩

end Sys2Proof.Machine

/-! ### O23: the payload of each failure kind, and its values (R47) -/

namespace Sys2Proof.Machine

/-- A nibble on `err_info` keeps its value. -/
theorem toNat_payload_nibble (v : Nibble) : (v.setWidth 64).toNat = v.toNat :=
  BitVec.toNat_setWidth_of_le (by decide)

/-- A nibble on `err_info` leaves the bits above it clear. -/
theorem payload_nibble_high_bits (v : Nibble) : (v.setWidth 64).extractLsb' 4 60 = 0#60 := by
  apply BitVec.eq_of_toNat_eq
  rw [toNat_slice, toNat_payload_nibble, Nat.div_eq_of_lt v.isLt]
  rfl

/-- The values of an observed version: every nibble but 1. -/
theorem payload_nibble_values {v : Nibble} (hv : v ≠ 1#4) :
    (v.setWidth 64).toNat = 0 ∨ 2 ≤ (v.setWidth 64).toNat ∧ (v.setWidth 64).toNat ≤ 15 := by
  have hlt := v.isLt
  have hne : v.toNat ≠ 1 := fun h => hv (BitVec.eq_of_toNat_eq h)
  rw [toNat_payload_nibble]
  omega

/-- The range check reads the top four bits of the tick count (R66). -/
theorem two_pow_sixty_le_iff_top_bits (a : Word) : 2 ^ 60 ≤ a.toNat ↔ a.extractLsb' 60 4 ≠ 0#4 := by
  have hlt := a.isLt
  have htop : a.extractLsb' 60 4 = 0#4 ↔ a.toNat / 2 ^ 60 % 2 ^ 4 = 0 := by
    rw [← toNat_slice]
    exact BitVec.toNat_inj.symm
  rw [ne_eq, htop]
  omega

/-- Every operation on an existing identifier reports a version other than 1 (R84). -/
theorem resultOf_of_not_versionOne {a b : Word} {i : Instr}
    (hi : i = .toSortable a b ∨ i = .toStandard a b ∨ i = .vguard a b) (hv : ¬ VersionOne a) :
    resultOf i = .invalidVersion (versionNibble a) := by
  rcases hi with rfl | rfl | rfl
  · exact toSortableResult_fail hv
  · exact toStandardResult_fail hv
  · exact vguardResult_fail hv

/-- Settles O23: the guard's failure carries the observed nibble, the range check's the tick count as presented. -/
theorem failurePayloads : Obligations.FailurePayloads := by
  constructor
  · intro a b s i hi hv
    obtain ⟨t, hexec, hstatus, -, -, herr, -⟩ := exec_answers i s (resultOf_of_not_versionOne hi hv)
    refine ⟨t, hexec, hstatus, herr, ?_⟩
    rw [herr]
    exact ⟨payload_nibble_high_bits _, payload_nibble_values hv⟩
  · intro a b s ha
    obtain ⟨t, hexec, hstatus, -, -, herr, -⟩ := exec_answers (.lowestBound a b) s (lowestBoundResult_fail (b := b) ha)
    refine ⟨t, hexec, hstatus, herr, ?_⟩
    rw [show t.errInfo = a from herr]
    exact ⟨ha, Nat.le_sub_one_of_lt a.isLt, (two_pow_sixty_le_iff_top_bits a).1 ha⟩

end Sys2Proof.Machine

/-! ### O38: the operand bits a response depends on (R41, R49)

No bit is treated on its own: from a response that succeeds the operands can be read back, so flipping any bit of them
changes it. -/

namespace Sys2Proof.Machine

/-! Each codec direction moves the counter from one layout to the other, and a version-1 word is known from its counter. -/

theorem counterSrt_toSortableHigh (h : Word) : counterSrt (toSortableHigh h) = counterStd h :=
  counterSrt_asmSrt _ _ _

theorem counterStd_toStandardHigh (h : Word) : counterStd (toStandardHigh h) = counterSrt h :=
  (counterStd_asmStd _ _ _).trans (counterSrt_eq_fields h).symm

theorem counterStd_injOn_versionOne : Set.InjOn counterStd {h | VersionOne h} := fun h hv h' hv' heq => by
  rw [← asmStd_counterStd hv, ← asmStd_counterStd hv', heq]

theorem counterSrt_injOn_versionOne : Set.InjOn counterSrt {h | VersionOne h} := fun h hv h' hv' heq => by
  rw [← asmSrt_counterSrt hv, ← asmSrt_counterSrt hv', heq]

theorem toSortableHigh_injOn_versionOne : Set.InjOn toSortableHigh {h | VersionOne h} := fun h hv h' hv' heq =>
  counterStd_injOn_versionOne hv hv' <| by
    rw [← counterSrt_toSortableHigh h, heq, counterSrt_toSortableHigh]

theorem toStandardHigh_injOn_versionOne : Set.InjOn toStandardHigh {h | VersionOne h} := fun h hv h' hv' heq =>
  counterSrt_injOn_versionOne hv hv' <| by
    rw [← counterStd_toStandardHigh h, heq, counterStd_toStandardHigh]

/-- The one shape of TOSORTABLE, TOSTANDARD and VGUARD: behind the guard, a function of `high` that loses nothing, and
`low` as it is (R55, R60, R61, R65). -/
theorem exists_resultOf_eq_guarded {op : OpSel} (hop : op ≠ opLowestBound) :
    ∃ f : Word → Word, Set.InjOn f {h | VersionOne h} ∧
      ∀ a b, resultOf (commandOf op a b) = guarded (identifierOperand a b) (.ok (f a) b) := by
  rcases opSel_cases op with rfl | rfl | rfl | rfl
  · exact ⟨toSortableHigh, toSortableHigh_injOn_versionOne, fun _ _ => rfl⟩
  · exact ⟨toStandardHigh, toStandardHigh_injOn_versionOne, fun _ _ => rfl⟩
  · exact absurd rfl hop
  · exact ⟨id, Set.injOn_id _, fun _ _ => rfl⟩

section guarded
variable {a b : Word} {r : Result}

/-! The guard, for the identifier the operands hold. -/

theorem guarded_operand_pass (hv : VersionOne a) : guarded (identifierOperand a b) r = r := guarded_pass r hv

theorem guarded_operand_fail (hv : ¬ VersionOne a) :
    guarded (identifierOperand a b) r = .invalidVersion (versionNibble a) := guarded_fail r hv

/-- The status of an operation that succeeds behind the guard reads the version nibble alone. -/
theorem statusOf_guarded (hr : statusOf r = stOk) :
    statusOf (guarded (identifierOperand a b) r) = if VersionOne a then stOk else stInvalidVersion := by
  split_ifs with hv
  · rw [guarded_operand_pass hv, hr]
  · rw [guarded_operand_fail hv]; rfl

/-- A success from behind the guard shows that the guard passed. -/
theorem versionOne_of_statusOf_guarded (hok : statusOf (guarded (identifierOperand a b) r) = stOk) : VersionOne a := by
  by_contra hv
  rw [guarded_operand_fail hv] at hok
  exact absurd hok (by decide : stInvalidVersion ≠ stOk)

end guarded

/-- From a response of TOSORTABLE, TOSTANDARD or VGUARD that succeeds both operands can be read back. -/
theorem operands_eq_of_respond_eq {op : OpSel} (hop : op ≠ opLowestBound) {a a' b b' : Word} (hv : VersionOne a)
    (heq : respond (commandOf op a b) = respond (commandOf op a' b')) : a = a' ∧ b = b' := by
  obtain ⟨f, hinj, hf⟩ := exists_resultOf_eq_guarded hop
  have hresult : resultOf (commandOf op a b) = resultOf (commandOf op a' b') := responseOf_injective heq
  rw [hf, hf, guarded_operand_pass hv] at hresult
  have hv' : VersionOne a' := versionOne_of_statusOf_guarded (congrArg statusOf hresult.symm)
  rw [guarded_operand_pass hv'] at hresult
  obtain ⟨hhigh, hlow⟩ := Result.ok.inj hresult
  exact ⟨hinj hv hv' hhigh, hlow⟩

/-- From a response of LOWESTBOUND that succeeds the tick count can be read back. -/
theorem tick_eq_of_respond_eq {a a' b b' : Word} (ha : a.toNat < 2 ^ 60)
    (heq : respond (.lowestBound a b) = respond (.lowestBound a' b')) : a = a' := by
  have hresult : lowestBoundResult a b = lowestBoundResult a' b' := responseOf_injective heq
  rw [lowestBoundResult_ok ha] at hresult
  rcases Nat.lt_or_ge a'.toNat (2 ^ 60) with ha' | ha'
  · rw [lowestBoundResult_ok ha'] at hresult
    injection hresult with hhigh
    have hnat := congrArg BitVec.toNat hhigh
    rw [toNat_lowestBoundHigh ha, toNat_lowestBoundHigh ha'] at hnat
    apply BitVec.eq_of_toNat_eq
    omega
  · rw [lowestBoundResult_fail ha'] at hresult
    cases hresult

/-- Flipping a bit of a word gives another word. -/
theorem flip_bit_ne (x : Word) {i : Nat} (hi : i < 64) : x ≠ x ^^^ BitVec.twoPow 64 i := by
  intro heq
  have hbit := congrArg (fun y : Word => y.getLsbD i) heq
  simp [hi] at hbit

/-- Every bit of `a` makes a difference to some response of every operation (R41). -/
theorem bit_of_a_is_used (op : OpSel) {i : Nat} (hi : i < 64) :
    ∃ a b : Word, respond (commandOf op (a ^^^ BitVec.twoPow 64 i) b) ≠ respond (commandOf op a b) := by
  by_cases hop : op = opLowestBound
  · subst hop
    exact ⟨0#64, 0#64, fun h => flip_bit_ne 0#64 hi (tick_eq_of_respond_eq (by decide) h.symm)⟩
  · exact ⟨0x1000#64, 0#64, fun h =>
      flip_bit_ne 0x1000#64 hi (operands_eq_of_respond_eq hop (by decide) h.symm).1⟩

/-- Every bit of `b` makes a difference to some response of TOSORTABLE, TOSTANDARD and VGUARD (R41). -/
theorem bit_of_b_is_used {op : OpSel} (hop : op ≠ opLowestBound) {i : Nat} (hi : i < 64) :
    ∃ a b : Word, respond (commandOf op a (b ^^^ BitVec.twoPow 64 i)) ≠ respond (commandOf op a b) :=
  ⟨0x1000#64, 0#64, fun h => flip_bit_ne 0#64 hi (operands_eq_of_respond_eq hop (by decide) h.symm).2⟩

/-- Of a response of TOSORTABLE, TOSTANDARD or VGUARD, `b` reaches `out_low` alone, and on success as itself (R65). -/
theorem b_reaches_only_outLow {op : OpSel} (hop : op ≠ opLowestBound) (a b b' : Word) :
    (respond (commandOf op a b)).status = (respond (commandOf op a b')).status ∧
    (respond (commandOf op a b)).outHigh = (respond (commandOf op a b')).outHigh ∧
    (respond (commandOf op a b)).errInfo = (respond (commandOf op a b')).errInfo ∧
    ((respond (commandOf op a b)).status = stOk → (respond (commandOf op a b)).outLow = b) := by
  obtain ⟨f, -, hf⟩ := exists_resultOf_eq_guarded hop
  rw [respond, respond, hf, hf]
  by_cases hv : VersionOne a
  · rw [guarded_operand_pass hv, guarded_operand_pass hv]
    exact ⟨rfl, rfl, rfl, fun _ => rfl⟩
  · refine ⟨?_, ?_, ?_, fun hstatus => absurd (versionOne_of_statusOf_guarded hstatus) hv⟩
    all_goals rw [guarded_operand_fail hv, guarded_operand_fail hv]

/-- The status of VGUARD is a function of the version nibble (R54). -/
theorem status_vguard (a b : Word) :
    (respond (.vguard a b)).status = if VersionOne a then stOk else stInvalidVersion :=
  statusOf_guarded (b := b) (r := .ok a b) rfl

theorem outHigh_vguard_of_ok {a b : Word} (hstatus : (respond (.vguard a b)).status = stOk) :
    (respond (.vguard a b)).outHigh = a := by
  have hv : VersionOne a := versionOne_of_statusOf_guarded (r := .ok a b) hstatus
  rw [respond, resultOf, vguardResult_ok hv]
  rfl

/-- Settles O38: what a success shows determines the operands, and LOWESTBOUND's rule does not mention `b`. -/
theorem operandBitsUsed : Obligations.OperandBitsUsed := by
  refine ⟨fun op i hi => bit_of_a_is_used op hi, fun op i hop hi => bit_of_b_is_used hop hi,
    fun op a b b' hop => b_reaches_only_outLow hop a b b',
    fun a b b' s => ⟨_, _, exec_eq_hold _ s, exec_eq_hold _ s, rfl⟩, fun a a' b b' hnibble => ?_,
    fun a b hstatus => outHigh_vguard_of_ok hstatus⟩
  have hversion : VersionOne a ↔ VersionOne a' := Eq.congr_left hnibble
  simp only [status_vguard, hversion]

end Sys2Proof.Machine

/-! ### O11 and O12: the Version Guard, as an operation (R55) and as a function (R54) -/

namespace Sys2Proof.Machine

/-- Settles O11: the guard decides between VGUARD's two results, and the next state shows the one it is. -/
theorem vguardResponse : Obligations.VguardResponse := by
  intro a b s
  refine ⟨decode_commandWord opVguard a b, fun hv => ?_, fun hv => ?_⟩
  · exact (exec_shows_iff (.vguard a b) s (.ok a b)).2 (vguardResult_ok hv).symm
  · exact (exec_shows_iff (.vguard a b) s (.invalidVersion (versionNibble a))).2 (vguardResult_fail hv).symm

/-- The guard reads the version nibble and nothing else (R54). -/
theorem versionGuard_factorsThrough : Function.FactorsThrough versionGuard versionNibble := fun h h' hnibble => by
  rw [versionGuard, versionGuard, hnibble]

/-- "Propagate failure unchanged": behind a guard that fails, its failure is the result (R54). -/
theorem guarded_of_versionGuard_fail {x : Identifier} {v : Nibble} (onPass : Result)
    (hfail : versionGuard x.high = .fail v) : guarded x onPass = .invalidVersion v := by
  rw [guarded, hfail]

/-- Settles O12: the guard is a test of the nibble, and both codec operations stand behind it. -/
theorem versionGuardContract : Obligations.VersionGuardContract := by
  intro h
  refine ⟨versionGuard_pass, versionGuard_fail, fun h' hnibble => versionGuard_factorsThrough hnibble,
    fun v l hfail => ?_⟩
  exact ⟨guarded_of_versionGuard_fail (x := identifierOperand h l) _ hfail,
    guarded_of_versionGuard_fail (x := identifierOperand h l) _ hfail⟩

end Sys2Proof.Machine

/-! ### O8 and O9: the two directions of the Field Codec, as operations (R60, R61) -/

namespace Sys2Proof.Machine

/-- A slice of a slice, inside its bounds, is a slice of the word. -/
theorem slice_slice {n start len start' len' : Nat} (x : BitVec n) (hfits : start' + len' ≤ len) :
    (x.extractLsb' start len).extractLsb' start' len' = x.extractLsb' (start + start') len' := by
  apply BitVec.eq_of_getLsbD_eq
  intro i hi
  rw [getLsbD_slice _ hi, getLsbD_slice _ (by omega), getLsbD_slice _ hi, Nat.add_assoc]

/-! The parts of `time_low` are slices of a slice of the word (R56). -/

theorem timeLowHi20_stdFields (h : Word) : timeLowHi20 (stdFields h).timeLow = h.extractLsb' 44 20 :=
  slice_slice h (by decide)

theorem timeLowLo12_stdFields (h : Word) : timeLowLo12 (stdFields h).timeLow = h.extractLsb' 32 12 :=
  slice_slice h (by decide)

theorem toSortableHigh_eq_slices (h : Word) : toSortableHigh h =
    h.extractLsb' 0 12 ++ h.extractLsb' 16 16 ++ h.extractLsb' 44 20 ++ 1#4 ++ h.extractLsb' 32 12 := by
  rw [toSortableHigh, asmSrt, timeLowHi20_stdFields, timeLowLo12_stdFields]
  rfl

/-- No slice is cut again here: the sortable layout already keeps the parts of `time_low` apart (R57, R61). -/
theorem toStandardHigh_eq_slices (h : Word) : toStandardHigh h =
    h.extractLsb' 16 20 ++ h.extractLsb' 0 12 ++ h.extractLsb' 36 16 ++ 1#4 ++ h.extractLsb' 52 12 := rfl

/-- What the next state shows for a command that succeeds behind the guard: the guard decides between two responses. -/
theorem exec_shows_of_guarded {i : Instr} {a b high low : Word} (s : State)
    (hi : resultOf i = guarded (identifierOperand a b) (.ok high low)) :
    (VersionOne a → ∃ t, exec i s = .next t ∧ t.response = responseOf (.ok high low)) ∧
    (¬ VersionOne a → ∃ t, exec i s = .next t ∧ t.response = responseOf (.invalidVersion (versionNibble a))) :=
  ⟨fun hv => (exec_shows_iff i s _).2 (hi.trans (guarded_operand_pass hv)).symm,
    fun hv => (exec_shows_iff i s _).2 (hi.trans (guarded_operand_fail hv)).symm⟩

/-- Settles O8: the guard decides between the two responses, and the assembled word is the slices in R60's order. -/
theorem toSortableResponse : Obligations.ToSortableResponse := by
  intro a b s
  rw [← toSortableHigh_eq_slices]
  exact ⟨decode_commandWord opToSortable a b, exec_shows_of_guarded s rfl⟩

/-- Settles O9: the guard decides between the two responses, and the assembled word is the slices in R61's order. -/
theorem toStandardResponse : Obligations.ToStandardResponse := by
  intro a b s
  rw [← toStandardHigh_eq_slices]
  exact ⟨decode_commandWord opToStandard a b, exec_shows_of_guarded s rfl⟩

end Sys2Proof.Machine

/-! ### O27: `low` is carried through and influences nothing else (R65, R72) -/

namespace Sys2Proof.Machine

/-- The operations on an existing identifier are those of every operation select but LOWESTBOUND's (R40). -/
theorem exists_commandOf_eq {f : Word → Word → Instr} (hf : f = .toSortable ∨ f = .toStandard ∨ f = .vguard) :
    ∃ op, op ≠ opLowestBound ∧ commandOf op = f := by
  rcases hf with rfl | rfl | rfl
  · exact ⟨opToSortable, by decide, rfl⟩
  · exact ⟨opToStandard, by decide, rfl⟩
  · exact ⟨opVguard, by decide, rfl⟩

/-- Settles O27: `low` reaches `out_low` alone; there the guard decides whether it stands as itself. -/
theorem lowIsCarriedThrough : Obligations.LowIsCarriedThrough := by
  intro h l l' s f hf
  obtain ⟨op, hop, rfl⟩ := exists_commandOf_eq hf
  obtain ⟨hstatus, hhigh, herr, -⟩ := b_reaches_only_outLow hop h l l'
  obtain ⟨g, -, hresult⟩ := exists_resultOf_eq_guarded hop
  obtain ⟨t, ht, htstatus, hthigh, htlow, hterr, -⟩ := exec_answers (commandOf op h l) s rfl
  obtain ⟨u, hu, hustatus, huhigh, -, huerr, -⟩ := exec_answers (commandOf op h l') s rfl
  refine ⟨t, u, ht, hu, htstatus.trans (hstatus.trans hustatus.symm), hthigh.trans (hhigh.trans huhigh.symm),
    hterr.trans (herr.trans huerr.symm), fun hv => ?_, fun hv => ?_⟩
  · rw [hresult, guarded_operand_pass hv] at htstatus htlow
    exact ⟨htstatus, htlow⟩
  · rw [hresult, guarded_operand_fail hv] at htstatus htlow
    exact ⟨htstatus, htlow⟩

end Sys2Proof.Machine

/-! ### O32: extraction and assembly by the two layouts (R56 to R59) -/

namespace Sys2Proof.Machine

/-- Settles O32: the tables are the definitions, and extraction inverts assembly layout by layout. -/
theorem fieldsReadBackWhatAssemblyWrote : Obligations.FieldsReadBackWhatAssemblyWrote :=
  ⟨fun h => ⟨rfl, timeLowHi20_stdFields h, timeLowLo12_stdFields h, rfl⟩,
    fun hi mid lo => ⟨rfl, rfl, stdFields_asmStd hi mid lo, srtFields_asmSrt hi mid lo, timeLow_join lo⟩⟩

end Sys2Proof.Machine

/-! ### O10: LOWESTBOUND, as an operation (R66) -/

namespace Sys2Proof.Machine

/-- The shift and mask form of the bound is the bound itself, bit by bit: the shifts move bits 59 to 12 up by
four places, the constant sets bit 12 and no other, and the mask keeps the bits below 12. -/
theorem lowestBoundHigh_eq_shifted (t : Word) : lowestBoundHigh t = lowestBoundHighShifted t := by
  have hversion : 0x1000#64 = BitVec.twoPow 64 12 := by decide
  have hmask : 0xFFF#64 = (BitVec.allOnes 12).setWidth 64 := by decide
  apply BitVec.eq_of_getLsbD_eq
  intro i hi
  rw [getLsbD_lowestBoundHigh t hi, lowestBoundHighShifted, hversion, hmask, BitVec.getLsbD_or, BitVec.getLsbD_or,
    BitVec.getLsbD_shiftLeft, BitVec.getLsbD_ushiftRight, BitVec.getLsbD_twoPow, BitVec.getLsbD_and,
    BitVec.getLsbD_setWidth, BitVec.getLsbD_allOnes]
  split_ifs with h12 h16
  · simp [hi, h12, show i < 16 by omega, show 12 ≠ i by omega]
  · simp [h12, h16, eq_comm]
  · simp [hi, h12, h16, show 12 ≠ i by omega, show 12 + (i - 16) = i - 4 by omega]

/-- Settles O10: the range check decides between LOWESTBOUND's two results, and the next state shows the one it is. -/
theorem lowestBoundResponse : Obligations.LowestBoundResponse := by
  intro a b s
  refine ⟨decode_commandWord opLowestBound a b, fun ha => ?_, fun ha => ?_, two_pow_sixty_le_iff_top_bits a⟩
  · obtain ⟨t, hexec, -, hhigh, -, -, hresponse⟩ :=
      exec_answers (.lowestBound a b) s (lowestBoundResult_ok (b := b) (Nat.lt_succ_of_le ha))
    exact ⟨t, hexec, hresponse, hhigh.trans (lowestBoundHigh_eq_shifted a)⟩
  · exact (exec_shows_iff (.lowestBound a b) s (.outOfRange a)).2 (lowestBoundResult_fail (b := b) ha).symm

end Sys2Proof.Machine

/-! ### O26: the two directions of the codec undo each other (R71) -/

namespace Sys2Proof.Machine

theorem versionOne_toSortableHigh (h : Word) : VersionOne (toSortableHigh h) := versionOne_asmSrt _ _ _

theorem versionOne_toStandardHigh (h : Word) : VersionOne (toStandardHigh h) := versionOne_asmStd _ _ _

section roundTrip
variable {h : Word} (hv : VersionOne h)
include hv

/-! Each direction moves the counter to the other layout and the other direction moves it back. -/

theorem toStandardHigh_toSortableHigh : toStandardHigh (toSortableHigh h) = h :=
  counterStd_injOn_versionOne (versionOne_toStandardHigh _) hv <| by
    rw [counterStd_toStandardHigh, counterSrt_toSortableHigh]

theorem toSortableHigh_toStandardHigh : toSortableHigh (toStandardHigh h) = h :=
  counterSrt_injOn_versionOne (versionOne_toSortableHigh _) hv <| by
    rw [counterSrt_toSortableHigh, counterStd_toStandardHigh]

end roundTrip

/-- A host carries the result of one command into the next (R96): both responses are read in turn. -/
theorem exec_exec_of_ok {i : Instr} {f : Word → Word → Instr} {high low high' low' : Word} (s : State)
    (hi : resultOf i = .ok high low) (hf : resultOf (f high low) = .ok high' low') :
    ∃ t u, exec i s = .next t ∧ t.status = stOk ∧ t.outHigh = high ∧ t.outLow = low ∧
      exec (f t.outHigh t.outLow) t = .next u ∧ u.response = responseOf (.ok high' low') := by
  obtain ⟨t, ht, hstatus, hhigh, hlow, -, -⟩ := exec_answers i s hi
  obtain ⟨u, hu, hresponse⟩ := (exec_shows_iff (f high low) t _).2 hf.symm
  exact ⟨t, u, ht, hstatus, hhigh, hlow, by rwa [hhigh, hlow], hresponse⟩

/-- Settles O26: the word between is version 1, so the second operation passes its guard, and it undoes the first. -/
theorem codecRoundTrip : Obligations.CodecRoundTrip := by
  intro h l s hv
  constructor
  · have hback : toStandardResult (toSortableHigh h) l = .ok h l := by
      rw [toStandardResult_ok (versionOne_toSortableHigh h), toStandardHigh_toSortableHigh hv]
    obtain ⟨t, u, ht, hstatus, hhigh, hlow, hu, hresponse⟩ :=
      exec_exec_of_ok (i := .toSortable h l) (f := .toStandard) s (toSortableResult_ok hv) hback
    exact ⟨t, u, ht, hstatus, hhigh ▸ versionOne_toSortableHigh h, hlow, hu, hresponse⟩
  · have hback : toSortableResult (toStandardHigh h) l = .ok h l := by
      rw [toSortableResult_ok (versionOne_toStandardHigh h), toSortableHigh_toStandardHigh hv]
    obtain ⟨t, u, ht, hstatus, hhigh, hlow, hu, hresponse⟩ :=
      exec_exec_of_ok (i := .toStandard h l) (f := .toSortable) s (toStandardResult_ok hv) hback
    exact ⟨t, u, ht, hstatus, hhigh ▸ versionOne_toStandardHigh h, hlow, hu, hresponse⟩

end Sys2Proof.Machine

/-! ### O14: every command has one response, and when it succeeds (R70) -/

namespace Sys2Proof.Machine

/-- TOSORTABLE, TOSTANDARD and VGUARD succeed exactly on a version-1 word. -/
theorem statusOf_resultOf_commandOf_eq_stOk_iff {op : OpSel} (hop : op ≠ opLowestBound) (a b : Word) :
    statusOf (resultOf (commandOf op a b)) = stOk ↔ VersionOne a := by
  obtain ⟨f, -, hf⟩ := exists_resultOf_eq_guarded hop
  rw [hf]
  refine ⟨versionOne_of_statusOf_guarded, fun hv => ?_⟩
  rw [guarded_operand_pass hv]
  rfl

/-- LOWESTBOUND succeeds exactly on a tick count in range. -/
theorem statusOf_lowestBoundResult_eq_stOk_iff (a b : Word) :
    statusOf (lowestBoundResult a b) = stOk ↔ a.toNat < 2 ^ 60 := by
  rcases Nat.lt_or_ge a.toNat (2 ^ 60) with ha | ha
  · rw [lowestBoundResult_ok ha]
    exact iff_of_true rfl ha
  · rw [lowestBoundResult_fail ha]
    exact iff_of_false (by decide : stOutOfRange ≠ stOk) ha.not_gt

/-- The block succeeds exactly when the check of the operation that `op` selects passes. -/
theorem status_eq_stOk_iff (s : State) :
    s.status = stOk ↔ if s.op = opLowestBound then s.a.toNat < 2 ^ 60 else VersionOne s.a := by
  rw [status_eq, State.command]
  split_ifs with hop
  · rw [hop, commandOf_lowestBound]
    exact statusOf_lowestBoundResult_eq_stOk_iff s.a s.b
  · exact statusOf_resultOf_commandOf_eq_stOk_iff hop s.a s.b

/-- The response is that of the command which `op` selects. -/
theorem response_of_op_eq {s : State} {op : OpSel} (hop : s.op = op) : s.response = respond (commandOf op s.a s.b) := by
  rw [State.response, State.command, hop]

/-- Settles O14: a step leaves the inputs as they are, and the outputs show the result of the command on them. -/
theorem everyCommandHasOneResponse : Obligations.EveryCommandHasOneResponse := by
  intro s
  refine ⟨s, step_eq_self s, response_of_op_eq (op := opToSortable), response_of_op_eq (op := opToStandard),
    response_of_op_eq (op := opLowestBound), response_of_op_eq (op := opVguard), status_eq_stOk_iff s,
    fun s' hop ha hb => ?_⟩
  rw [state_ext_ports hop ha hb, step_eq_self]

end Sys2Proof.Machine

/-! ### O28: every successful response is tagged version 1 (R73) -/

namespace Sys2Proof.Machine

/-- The bound is assembled with the constant version nibble 1 (R66). -/
theorem versionOne_lowestBoundHigh (t : Word) : VersionOne (lowestBoundHigh t) :=
  slice_skip (t.extractLsb' 0 12) rfl BitVec.extractLsb'_append_eq_right

/-- A success from behind the guard is tagged version 1 when the operation keeps the tag. -/
theorem versionOne_of_guarded_eq_ok {a b c d high low : Word} (hkeeps : VersionOne a → VersionOne c)
    (hok : guarded (identifierOperand a b) (.ok c d) = .ok high low) : VersionOne high := by
  have hv : VersionOne a := versionOne_of_statusOf_guarded (congrArg statusOf hok)
  rw [guarded_operand_pass hv] at hok
  obtain ⟨hhigh, -⟩ := Result.ok.inj hok
  exact hhigh ▸ hkeeps hv

/-- Every successful result is tagged version 1, whatever the command. -/
theorem versionOne_of_resultOf_eq_ok {i : Instr} {high low : Word} (hok : resultOf i = .ok high low) :
    VersionOne high := by
  cases i with
  | toSortable a b => exact versionOne_of_guarded_eq_ok (fun _ => versionOne_toSortableHigh a) hok
  | toStandard a b => exact versionOne_of_guarded_eq_ok (fun _ => versionOne_toStandardHigh a) hok
  | lowestBound a b =>
    have hok : lowestBoundResult a b = .ok high low := hok
    have ha := (statusOf_lowestBoundResult_eq_stOk_iff a b).1 (congrArg statusOf hok)
    rw [lowestBoundResult_ok ha] at hok
    obtain ⟨hhigh, -⟩ := Result.ok.inj hok
    exact hhigh ▸ versionOne_lowestBoundHigh a
  | vguard a b => exact versionOne_of_guarded_eq_ok id hok

/-- A status of 0 belongs to a success and to no failure (R46). -/
theorem exists_eq_ok_of_statusOf_eq_stOk {r : Result} (hstatus : statusOf r = stOk) : ∃ high low, r = .ok high low := by
  cases r with
  | ok high low => exact ⟨high, low, rfl⟩
  | invalidVersion observed => exact absurd hstatus (by decide : stInvalidVersion ≠ stOk)
  | outOfRange offending => exact absurd hstatus (by decide : stOutOfRange ≠ stOk)

/-- A block that shows success shows a version-1 word. -/
theorem versionOne_outHigh_of_status_eq_stOk {s : State} (hstatus : s.status = stOk) : VersionOne s.outHigh := by
  obtain ⟨high, low, hok⟩ := exists_eq_ok_of_statusOf_eq_stOk hstatus
  rw [outHigh_eq, hok]
  exact versionOne_of_resultOf_eq_ok hok

/-- A command that succeeds completes with a version-1 word. -/
theorem exec_versionOne_of_ok {i : Instr} {high low : Word} (s : State) (hok : resultOf i = .ok high low) :
    ∃ t, exec i s = .next t ∧ VersionOne t.outHigh := by
  obtain ⟨t, ht, hstatus, -⟩ := exec_answers i s hok
  exact ⟨t, ht, versionOne_outHigh_of_status_eq_stOk hstatus⟩

/-- Settles O28: a version-1 word passes the guard, and every success is tagged version 1. -/
theorem versionIsPreserved : Obligations.VersionIsPreserved :=
  ⟨fun _ _ s hv => ⟨exec_versionOne_of_ok s (toSortableResult_ok hv), exec_versionOne_of_ok s (toStandardResult_ok hv)⟩,
    fun _ _ _ _ hstatus => versionOne_outHigh_of_status_eq_stOk hstatus⟩

end Sys2Proof.Machine

/-! ### O29: every other version is rejected with its own value (R74) -/

namespace Sys2Proof.Machine

/-- An operation on an existing identifier rejects another version with that version as its payload (R84). -/
theorem exec_rejects_version {f : Word → Word → Instr} (hf : f = .toSortable ∨ f = .toStandard ∨ f = .vguard)
    {v : Nibble} (hv : v ≠ requiredVersion) {a : Word} (ha : versionNibble a = v) (b : Word) (s : State) :
    ∃ t, exec (f a b) s = .next t ∧ t.response = responseOf (.invalidVersion v) := by
  obtain ⟨op, hop, rfl⟩ := exists_commandOf_eq hf
  obtain ⟨g, -, hg⟩ := exists_resultOf_eq_guarded hop
  subst ha
  exact (exec_shows_of_guarded s (hg a b)).2 hv

/-- Settles O29: the rejection is a function of the nibble, so operands with the same nibble share it. -/
theorem otherVersionsAreRejected : Obligations.OtherVersionsAreRejected := by
  intro v a b s f hv ha hf
  obtain ⟨t, ht, hresponse⟩ := exec_rejects_version hf hv ha b s
  refine ⟨t, ht, hresponse, fun a' b' ha' => ?_⟩
  rw [hresponse]
  exact exec_rejects_version hf hv ha' b' s

end Sys2Proof.Machine

/-! ### O30: the bound at the maximum and beyond it (R75, R76) -/

namespace Sys2Proof.Machine

/-- LOWESTBOUND reports every tick count above the maximum as it was presented (R85). -/
theorem exec_lowestBound_overflows {a : Word} (ha : 2 ^ 60 ≤ a.toNat) (b : Word) (s : State) :
    ∃ t, exec (.lowestBound a b) s = .next t ∧ t.response = responseOf (.outOfRange a) :=
  (exec_shows_iff (.lowestBound a b) s _).2 (lowestBoundResult_fail (b := b) ha).symm

/-- Settles O30: the maximum is in range and its bound is computed; one tick beyond it overflows like any larger count. -/
theorem boundAtTheMaximumAndBeyond : Obligations.BoundAtTheMaximumAndBeyond := by
  intro b s
  refine ⟨?_, exec_lowestBound_overflows (by decide) b s, fun a ha => exec_lowestBound_overflows ha b s⟩
  have hbound : lowestBoundHigh maxCounter = 0xFFFFFFFFFFFF1FFF#64 := by decide
  have hmax : lowestBoundResult maxCounter b = .ok 0xFFFFFFFFFFFF1FFF#64 variantLow := by
    rw [lowestBoundResult_ok (by decide), hbound]
  exact (exec_shows_iff (.lowestBound maxCounter b) s _).2 hmax.symm

end Sys2Proof.Machine

/-! ### O3, O4 and O18: decode and encode agree, and the outputs are the rules' function of the inputs -/

namespace Sys2Proof

/-- Settles O3: the decoder reads the three fields back, and a command is selected by its own. -/
theorem decodeOfEncodeIsTheCommand : Obligations.DecodeOfEncodeIsTheCommand := fun i =>
  (decode_commandWord i.op i.a i.b).trans (commandOf_fields i)

/-- The word of the command that an operation select picks carries that operation select (R40). -/
theorem encode_commandOf (op : OpSel) (a b : Word) : encode (commandOf op a b) = commandWord op a b := by
  rcases opSel_cases op with rfl | rfl | rfl | rfl <;> rfl

/-- Settles O4: encoding puts the three fields back, and they are the whole word. -/
theorem encodeOfDecodeIsTheWord : Obligations.EncodeOfDecodeIsTheWord := fun w =>
  (encode_commandOf (opField w) (aField w) (bField w)).trans (commandWord_fields w)

end Sys2Proof

namespace Sys2Proof.Machine

/-- The rule of an operation on an existing identifier: its success behind the test of the version nibble. -/
theorem responseOf_guarded (a b high low : Word) :
    responseOf (guarded (identifierOperand a b) (.ok high low)) =
      if a.extractLsb' 12 4 ≠ 1#4 then ⟨1#2, 0#64, 0#64, (a.extractLsb' 12 4).setWidth 64⟩
      else ⟨0#2, high, low, 0#64⟩ := by
  split_ifs with hv
  · exact congrArg responseOf (guarded_operand_fail hv)
  · exact congrArg responseOf (guarded_operand_pass (not_not.1 hv))

/-- The rule of LOWESTBOUND: its success behind the range check. -/
theorem responseOf_lowestBoundResult (a b : Word) :
    responseOf (lowestBoundResult a b) =
      if 2 ^ 60 ≤ a.toNat then ⟨2#2, 0#64, 0#64, a⟩ else ⟨0#2, lowestBoundHigh a, variantLow, 0#64⟩ := by
  split_ifs with ha
  · exact congrArg responseOf (lowestBoundResult_fail ha)
  · exact congrArg responseOf (lowestBoundResult_ok (Nat.lt_of_not_le ha))

/-- The model's operations give the response the rules write out, operation by operation. -/
theorem respond_commandOf (op : OpSel) (a b : Word) : respond (commandOf op a b) = ruledResponse op a b := by
  rcases opSel_cases op with rfl | rfl | rfl | rfl
  · refine (responseOf_guarded a b (toSortableHigh a) b).trans ?_
    rw [toSortableHigh_eq_slices]
    rfl
  · exact responseOf_guarded a b (toStandardHigh a) b
  · exact responseOf_lowestBoundResult a b
  · exact responseOf_guarded a b a b

/-- No state has outputs of its own: every one is settled. -/
theorem settled (s : State) : Settled s := respond_commandOf s.op s.a s.b

/-- Settles O18: every state is settled, and a step leaves the state as it is. -/
theorem outputsFollowTheInputsAtEveryMoment : Obligations.OutputsFollowTheInputsAtEveryMoment := by
  refine ⟨fun s t _ hstep => ?_, fun s => ⟨settled s, s, step_eq_self s⟩⟩
  obtain rfl := step_next_eq hstep
  exact ⟨settled t, rfl, rfl, rfl, rfl⟩

end Sys2Proof.Machine

/-! ### O6 and O7: numbers as command words, and the next step after one is presented -/

namespace Sys2Proof

/-- The table's decoder reads a number of its width as the command word of its bits, or refuses it as too wide. -/
theorem decodeTableWord_cases {nbits w : Nat} (hw : w < 2 ^ nbits) :
    (w < 2 ^ 130 ∧ decodeTableWord nbits w = some (decode (BitVec.ofNat 130 w))) ∨
    (2 ^ 130 ≤ w ∧ decodeTableWord nbits w = none) := by
  rw [decodeTableWord, Nat.mod_eq_of_lt hw]
  rcases decodeNat_cases w with ⟨hfits, hdecode⟩ | ⟨hwide, hdecode⟩
  · exact .inl ⟨hfits, by rw [hdecode]; rfl⟩
  · exact .inr ⟨hwide, by rw [hdecode]; rfl⟩

/-- Settles O6: the two cases of the decoder exclude each other. -/
theorem onlyWiderNumbersAreRefused : Obligations.OnlyWiderNumbersAreRefused := by
  intro nbits w hw
  rcases decodeTableWord_cases hw with ⟨hfits, hdecode⟩ | ⟨hwide, hdecode⟩
  · rw [hdecode]
    exact ⟨iff_of_false (Option.some_ne_none _) hfits.not_ge, fun _ => rfl⟩
  · exact ⟨iff_of_true hdecode hwide, fun hfits => absurd hwide hfits.not_ge⟩

end Sys2Proof

namespace Sys2Proof.Machine

/-- A number the decoder accepts stands on the inputs as the word it was decoded from. -/
theorem withFetchWord_eq_presentWord (s : State) {nbits w : Nat} {i : Instr} (hw : w < 2 ^ nbits)
    (hdecode : decodeTableWord nbits w = some i) :
    ∃ word, decode word = i ∧ s.withFetchWord nbits w = s.presentWord word := by
  rcases decodeTableWord_cases hw with ⟨-, hsome⟩ | ⟨-, hnone⟩
  · refine ⟨BitVec.ofNat 130 w, Option.some.inj (hsome.symm.trans hdecode), ?_⟩
    rw [State.withFetchWord, Nat.mod_eq_of_lt hw]
  · cases hnone.symm.trans hdecode

/-- Settles O7: the word on the ports is the one presented, and the outputs follow it at once. -/
theorem nextStepRunsThePresentedCommand : Obligations.NextStepRunsThePresentedCommand := by
  intro s nbits w i hw hdecode
  obtain ⟨word, rfl, hpresent⟩ := withFetchWord_eq_presentWord s hw hdecode
  rw [hpresent]
  refine ⟨?_, response_presentWord s word⟩
  rw [step, commandOnPorts_presentWord]

end Sys2Proof.Machine

/-! ### O1 and O2: the step, and the command words the spec prints -/

namespace Sys2Proof.Machine

/-- Settles O1: a step decodes the word on the ports and runs the command. -/
theorem stepRunsTheCommandOnThePorts : Obligations.StepRunsTheCommandOnThePorts := by
  rintro s i rfl -
  rw [step, commandOnPorts]

/-- Settles O2: each printed word is the word of its command, and decoding it gives the command back. -/
theorem printedCommandWordsDecode : Obligations.PrintedCommandWordsDecode :=
  ⟨decodeOfEncodeIsTheCommand (.toSortable 0x0d0b40f8e96511e8#64 0x88b6ac7ba1c62b04#64),
    decodeOfEncodeIsTheCommand (.toStandard 0x1e8e9650d0b410f8#64 0x88b6ac7ba1c62b04#64),
    decodeOfEncodeIsTheCommand (.lowestBound 0x01e8e9650d0b40f9#64 0#64),
    decodeOfEncodeIsTheCommand (.vguard 0x0d0b40f8e96511e8#64 0x88b6ac7ba1c62b04#64)⟩

end Sys2Proof.Machine

/-! ### O13: what a command leaves behind -/

namespace Sys2Proof.Machine

/-- Settles O13: a command leaves its own fields on the inputs and nothing else; held already,
it changes nothing. -/
theorem operationsLeaveNothingElseBehind : Obligations.OperationsLeaveNothingElseBehind := by
  intro i s t hexec
  have hresponse := exec_next_response hexec
  obtain rfl := exec_next_eq hexec
  refine ⟨rfl, rfl, rfl, hresponse, fun hports => ?_⟩
  have hstep : step s = .next (s.hold i.op i.a i.b) := by rw [step, hports, hexec]
  exact step_next_eq hstep

end Sys2Proof.Machine

/-! ### O16: commands in any order (R36) -/

namespace Sys2Proof.Machine

/-- Settles O16: a session pairs each command with its own response, so permuting the commands permutes the pairs. -/
theorem commandsMayBeReordered : Obligations.CommandsMayBeReordered := by
  intro s s' commands commands' hperm
  rw [sessionsAreMemoryless, sessionsAreMemoryless, ← List.map_prod_left_eq_zip, ← List.map_prod_left_eq_zip]
  exact hperm.map _

end Sys2Proof.Machine

/-! ### O17: blocks side by side (R36, R38) -/

namespace Sys2Proof.Machine

/-- A block that has evaluated its inputs is the block it was. -/
theorem evaluated_eq_self (s : State) : evaluated s = s := by
  rw [evaluated, step_eq_self]

/-- Presenting to one block changes its inputs alone. -/
theorem presentTo_eq_modify (blocks : List State) (k : Nat) (i : Instr) :
    presentTo blocks k i = blocks.modify k fun s => s.present i := by
  simp only [presentTo, evaluated_eq_self]

theorem presentAll_concat (blocks : List State) (events : List (Nat × Instr)) (e : Nat × Instr) :
    presentAll blocks (events ++ [e]) = presentTo (presentAll blocks events) e.1 e.2 :=
  List.foldl_concat ..

theorem lastPresentedTo_concat_same (events : List (Nat × Instr)) (k : Nat) (i : Instr) :
    lastPresentedTo k (events ++ [(k, i)]) = some i := by
  simp [lastPresentedTo]

theorem lastPresentedTo_concat_other (events : List (Nat × Instr)) {j k : Nat} (hne : j ≠ k) (i : Instr) :
    lastPresentedTo k (events ++ [(j, i)]) = lastPresentedTo k events := by
  simp [lastPresentedTo, hne]

/-- A block's response after the events: that of the last command presented to it, else what it was. -/
theorem presentAll_getElem? {blocks : List State} {k : Nat} {s : State} (hs : blocks[k]? = some s)
    (events : List (Nat × Instr)) :
    ∃ t, (presentAll blocks events)[k]? = some t ∧
      t.response = (lastPresentedTo k events).elim s.response respond := by
  induction events using List.reverseRecOn with
  | nil => exact ⟨s, hs, rfl⟩
  | append_singleton events e ih =>
    obtain ⟨j, i⟩ := e
    obtain ⟨t, ht, hresponse⟩ := ih
    rw [presentAll_concat, presentTo_eq_modify]
    by_cases hjk : j = k
    · subst hjk
      rw [List.getElem?_modify_eq, ht, lastPresentedTo_concat_same]
      exact ⟨t.present i, rfl, response_present t i⟩
    · rw [List.getElem?_modify_ne _ _ hjk, lastPresentedTo_concat_other events hjk]
      exact ⟨t, ht, hresponse⟩

/-- Settles O17: by induction on the events from the last back; presentings change different entries of the list. -/
theorem instancesAreIndependent : Obligations.InstancesAreIndependent := by
  constructor
  · intro blocks events k s hs
    obtain ⟨t, ht, hresponse⟩ := presentAll_getElem? hs events
    refine ⟨t, ht, hresponse.trans ?_⟩
    cases lastPresentedTo k events <;> rfl
  · intro blocks j k i i' hne
    show presentTo (presentTo blocks j i) k i' = presentTo (presentTo blocks k i') j i
    simp only [presentTo_eq_modify, List.modify_modify_ne _ _ _ hne]

end Sys2Proof.Machine

/-! ### O24 and O19: responses that never occur (R50), and power-up -/

namespace Sys2Proof.Machine

/-- Only the guard reports a version, and LOWESTBOUND does not stand behind it. -/
theorem op_ne_of_resultOf_eq_invalidVersion {op : OpSel} {a b : Word} {v : Nibble}
    (h : resultOf (commandOf op a b) = .invalidVersion v) : op ≠ opLowestBound := by
  rintro rfl
  have h : lowestBoundResult a b = .invalidVersion v := h
  rcases Nat.lt_or_ge a.toNat (2 ^ 60) with ha | ha
  · cases (lowestBoundResult_ok ha).symm.trans h
  · cases (lowestBoundResult_fail ha).symm.trans h

/-- Only LOWESTBOUND reports a tick count. -/
theorem op_eq_of_resultOf_eq_outOfRange {op : OpSel} {a b u : Word}
    (h : resultOf (commandOf op a b) = .outOfRange u) : op = opLowestBound := by
  by_contra hop
  obtain ⟨f, -, hf⟩ := exists_resultOf_eq_guarded hop
  rw [hf] at h
  by_cases hv : VersionOne a
  · cases (guarded_operand_pass hv).symm.trans h
  · cases (guarded_operand_fail hv).symm.trans h

/-- The payload of a version failure is a nibble, and not 1 (R47). -/
theorem payload_nibble_bounds {v : Nibble} (hv : v ≠ 1#4) : v.setWidth 64 < 16#64 ∧ v.setWidth 64 ≠ 1#64 := by
  revert v
  decide

/-- The six facts hold of every command's response, result by result. -/
theorem responseOccurs (op : OpSel) (a b : Word) : ResponseOccurs op (respond (commandOf op a b)) := by
  obtain ⟨hversion, hcount⟩ := (resultWellFormed_iff _).1 (resultWellFormed_resultOf (commandOf op a b))
  rw [respond]
  cases hr : resultOf (commandOf op a b) with
  | ok high low =>
    exact ⟨(by decide : stOk ≠ 3#2), fun _ => rfl, fun hfailed => absurd rfl hfailed,
      fun hstatus => absurd hstatus (by decide : stOk ≠ stInvalidVersion),
      fun hstatus => absurd hstatus (by decide : stOk ≠ stOutOfRange), fun _ => versionOne_of_resultOf_eq_ok hr⟩
  | invalidVersion v =>
    exact ⟨(by decide : stInvalidVersion ≠ 3#2), fun hstatus => absurd hstatus (by decide : stInvalidVersion ≠ stOk),
      fun _ => ⟨rfl, rfl⟩, fun _ => ⟨op_ne_of_resultOf_eq_invalidVersion hr, payload_nibble_bounds (hversion v hr)⟩,
      fun hstatus => absurd hstatus (by decide : stInvalidVersion ≠ stOutOfRange),
      fun hstatus => absurd hstatus (by decide : stInvalidVersion ≠ stOk)⟩
  | outOfRange u =>
    exact ⟨(by decide : stOutOfRange ≠ 3#2), fun hstatus => absurd hstatus (by decide : stOutOfRange ≠ stOk),
      fun _ => ⟨rfl, rfl⟩, fun hstatus => absurd hstatus (by decide : stOutOfRange ≠ stInvalidVersion),
      fun _ => ⟨op_eq_of_resultOf_eq_outOfRange hr, hcount u hr⟩,
      fun hstatus => absurd hstatus (by decide : stOutOfRange ≠ stOk)⟩

/-- Settles O24: a step leaves the command on the inputs, and every command's response is one that occurs. -/
theorem impossibleResponsesNeverOccur : Obligations.ImpossibleResponsesNeverOccur := by
  intro s t hstep
  obtain rfl := step_next_eq hstep
  exact responseOccurs t.op t.a t.b

/-- Settles O19: power-up is a state like any other. -/
theorem powerUpIsSettled : Obligations.PowerUpIsSettled :=
  ⟨settled State.reset, responseOccurs State.reset.op State.reset.a State.reset.b⟩

end Sys2Proof.Machine

/-! ### O25: what a host that reads `status` first gets -/

namespace Sys2Proof.Machine

/-- The reader of results gives back a success and faults on a failure, by the failure's own fault (U5). -/
theorem hostReadsResult_responseOf (r : Result) :
    (∀ h l, r = .ok h l ↔ hostReadsResult (responseOf r) = .ok ⟨h, l⟩) ∧
    hostReadsResult (responseOf r) ≠ .error .notThisBlock := by
  cases r with
  | ok high low =>
    have hread : hostReadsResult (responseOf (.ok high low)) = .ok ⟨high, low⟩ := rfl
    simp [hread]
  | invalidVersion v =>
    have hread : hostReadsResult (responseOf (.invalidVersion v)) = .error .resultUnderFailure := rfl
    simp [hread]
  | outOfRange u =>
    have hread : hostReadsResult (responseOf (.outOfRange u)) = .error .resultUnderFailure := rfl
    simp [hread]

/-- The reader of payloads gives back the payload of a failure and faults on a success (U5). -/
theorem eq_failure_of_hostReadsPayload {r : Result} {p : Word} (h : hostReadsPayload (responseOf r) = .ok p) :
    r = .invalidVersion (p.setWidth 4) ∧ p.toNat < 16 ∨ r = .outOfRange p := by
  cases r with
  | ok high low => cases h
  | invalidVersion v =>
    have hp : v.setWidth 64 = p := Except.ok.inj h
    subst hp
    exact .inl ⟨by simp, (toNat_payload_nibble v).trans_lt v.isLt⟩
  | outOfRange u =>
    have hp : u = p := Except.ok.inj h
    exact .inr (congrArg Result.outOfRange hp)

/-- Settles O25: both readers follow the result that the response encodes. -/
theorem hostReadsResultsOnlyOnSuccess : Obligations.HostReadsResultsOnlyOnSuccess := by
  intro i
  obtain ⟨hresult, hstatus⟩ := hostReadsResult_responseOf (resultOf i)
  exact ⟨hresult, fun p hpayload => eq_failure_of_hostReadsPayload hpayload, hstatus⟩

end Sys2Proof.Machine

/-! ### O36 and O37: the value of an identifier (R31) and the groups of its text (R32) -/

namespace Sys2Proof.Machine

/-- Values are compared word by word, `high` first (R31). -/
theorem value128_lt_iff (x y : Identifier) :
    value128 x < value128 y ↔ x.high < y.high ∨ x.high = y.high ∧ x.low < y.low := by
  have hx := x.low.isLt
  have hy := y.low.isLt
  rw [value128, value128, BitVec.lt_def, BitVec.lt_def, ← BitVec.toNat_inj]
  omega

/-- Settles O36: the value is the concatenation as a number. -/
theorem valuesCompareWordByWord : Obligations.ValuesCompareWordByWord := by
  intro x y
  have hbits : value128 x = (identifierBits x).toNat := (toNat_join x.high x.low).symm
  exact ⟨hbits, hbits ▸ (identifierBits x).isLt, value128_lt_iff x y⟩

/-- Settles O37: three groups are slices of `high`, two are slices of `low`, and a group of two fields is two adjacent
slices. -/
theorem textGroupsAreTheStandardFields : Obligations.TextGroupsAreTheStandardFields := by
  intro x
  have hhigh : ∀ start len, (identifierBits x).extractLsb' (64 + start) len = x.high.extractLsb' start len :=
    fun _ _ => slice_skip x.low rfl rfl
  have hlow : ∀ start len, start + len ≤ 64 → (identifierBits x).extractLsb' start len = x.low.extractLsb' start len :=
    fun _ _ hfits => BitVec.extractLsb'_append_eq_of_add_le hfits
  have hversion : versionNibble x.high ++ x.high.extractLsb' 0 12 = x.high.extractLsb' 0 16 :=
    BitVec.extractLsb'_append_extractLsb'_eq_extractLsb' rfl
  have hclock : clockSeqHighVariant x.low ++ clockSeqLow x.low = x.low.extractLsb' 48 16 :=
    BitVec.extractLsb'_append_extractLsb'_eq_extractLsb' rfl
  exact ⟨hhigh 32 32, hhigh 16 16, (hhigh 0 16).trans hversion.symm, (hlow 48 16 (by decide)).trans hclock.symm,
    hlow 0 48 (by decide)⟩

end Sys2Proof.Machine

/-! ### O39, O41 and O44: the counter is carried, and the bound is a sortable word -/

namespace Sys2Proof.Machine

/-- A successful command shows the words of its result, with status 0. -/
theorem exec_ok_shows {i : Instr} {high low : Word} (s : State) (hi : resultOf i = .ok high low) :
    ∃ t, exec i s = .next t ∧ t.status = stOk ∧ t.outHigh = high ∧ t.outLow = low := by
  obtain ⟨t, ht, hstatus, hhigh, hlow, -⟩ := exec_answers i s hi
  exact ⟨t, ht, hstatus, hhigh, hlow⟩

section commands
variable {h u : Word} (l b : Word) (s : State)

/-! The three operations that give a sortable or a standard word, where they succeed. -/

theorem exec_toSortable_shows (hv : VersionOne h) : ∃ t, exec (.toSortable h l) s = .next t ∧ t.status = stOk ∧
    t.outHigh = toSortableHigh h ∧ t.outLow = l := exec_ok_shows s (toSortableResult_ok hv)

theorem exec_toStandard_shows (hv : VersionOne h) : ∃ t, exec (.toStandard h l) s = .next t ∧ t.status = stOk ∧
    t.outHigh = toStandardHigh h ∧ t.outLow = l := exec_ok_shows s (toStandardResult_ok hv)

theorem exec_lowestBound_shows (hu : u.toNat < 2 ^ 60) : ∃ t, exec (.lowestBound u b) s = .next t ∧ t.status = stOk ∧
    t.outHigh = lowestBoundHigh u ∧ t.outLow = variantLow :=
    exec_ok_shows s (lowestBoundResult_ok (b := b) hu)

end commands

/-- The bound carries the tick count: the version nibble stands between bits 11 and 12 of it (R66). -/
theorem counterSrt_lowestBoundHigh (u : Word) : counterSrt (lowestBoundHigh u) = u.setWidth 60 := by
  apply BitVec.eq_of_getLsbD_eq
  intro i hi
  rw [getLsbD_counterSrt _ hi, BitVec.getLsbD_setWidth, decide_eq_true hi, Bool.true_and]
  split_ifs with h12
  · rw [getLsbD_lowestBoundHigh u (by omega), if_pos h12]
  · rw [getLsbD_lowestBoundHigh u (by omega), if_neg (by omega), if_neg (by omega), Nat.add_sub_cancel]

/-- A tick count in range loses nothing in the 60 bits of a counter. -/
theorem toNat_tick {u : Word} (hu : u.toNat < 2 ^ 60) : (u.setWidth 60).toNat = u.toNat := by
  rw [BitVec.toNat_setWidth, Nat.mod_eq_of_lt hu]

theorem counterSrt_eq_iff {h h' : Word} (hv : VersionOne h) (hv' : VersionOne h') :
    counterSrt h = counterSrt h' ↔ h = h' := counterSrt_injOn_versionOne.eq_iff hv hv'

/-- A version-1 word with the counter of a tick is the bound's word. -/
theorem eq_lowestBoundHigh_iff {h : Word} (hv : VersionOne h) (u : Word) :
    h = lowestBoundHigh u ↔ counterSrt h = u.setWidth 60 := by
  rw [← counterSrt_lowestBoundHigh u, counterSrt_eq_iff hv (versionOne_lowestBoundHigh u)]

/-- The bound is assembled by the sortable layout from the parts of the tick count (R58, R66). -/
theorem asmSrt_eq_lowestBoundHigh (u : Word) :
    asmSrt (u.extractLsb' 48 12) (u.extractLsb' 32 16) (u.extractLsb' 0 32) = lowestBoundHigh u := by
  have hhigh : u.extractLsb' 48 12 ++ u.extractLsb' 32 16 = u.extractLsb' 32 28 :=
    BitVec.extractLsb'_append_extractLsb'_eq_extractLsb' rfl
  have hall : u.extractLsb' 32 28 ++ u.extractLsb' 0 32 = u.extractLsb' 0 60 :=
    BitVec.extractLsb'_append_extractLsb'_eq_extractLsb' rfl
  rw [eq_lowestBoundHigh_iff (versionOne_asmSrt _ _ _), counterSrt_asmSrt, hhigh,
    BitVec.setWidth_eq_extractLsb' (by decide)]
  exact hall

/-- The bound of a version-1 word's counter is the sortable word of it: both carry that counter (R80). -/
theorem toSortableHigh_eq_lowestBoundHigh (h : Word) :
    toSortableHigh h = lowestBoundHigh ((counterStd h).setWidth 64) := by
  rw [eq_lowestBoundHigh_iff (versionOne_toSortableHigh h), counterSrt_toSortableHigh,
    BitVec.setWidth_setWidth (by decide), BitVec.setWidth_eq]

/-- A counter is a tick count in range. -/
theorem toNat_counter_lt (c : Counter) : (c.setWidth 64).toNat < 2 ^ 60 := by
  rw [BitVec.toNat_setWidth_of_le (by decide)]
  exact c.isLt

/-- Settles O39: the codec moves the counter from one layout to the other, and the bound carries the tick count. -/
theorem counterIsCarriedExactly : Obligations.CounterIsCarriedExactly := by
  refine ⟨fun h l s hv => ⟨?_, ?_⟩, fun u b s hu => ?_⟩
  · obtain ⟨t, ht, -, hhigh, -⟩ := exec_toSortable_shows l s hv
    exact ⟨t, ht, hhigh ▸ counterSrt_toSortableHigh h⟩
  · obtain ⟨t, ht, -, hhigh, -⟩ := exec_toStandard_shows l s hv
    exact ⟨t, ht, hhigh ▸ counterStd_toStandardHigh h⟩
  · obtain ⟨t, ht, -, hhigh, -⟩ := exec_lowestBound_shows b s hu
    refine ⟨t, ht, ?_⟩
    rw [hhigh, counterSrt_lowestBoundHigh, toNat_tick hu]

/-- Settles O41: the bound is a sortable word of its tick, so TOSTANDARD takes it to a standard word of
the same tick. -/
theorem boundIsInTheSortableLayout : Obligations.BoundIsInTheSortableLayout := by
  intro u b s hu
  have hbound : resultOf (.lowestBound u b) = .ok (lowestBoundHigh u) variantLow := lowestBoundResult_ok (b := b) hu
  have hstd : resultOf (.toStandard (lowestBoundHigh u) variantLow) =
      .ok (toStandardHigh (lowestBoundHigh u)) variantLow :=
    toStandardResult_ok (versionOne_lowestBoundHigh u)
  obtain ⟨t, v, ht, -, hhigh, -, hv, hresponse⟩ := exec_exec_of_ok (f := .toStandard) s hbound hstd
  have hvhigh : v.outHigh = toStandardHigh (lowestBoundHigh u) := congrArg Response.outHigh hresponse
  refine ⟨t, v, ht, hhigh.trans (asmSrt_eq_lowestBoundHigh u).symm, hhigh ▸ counterSrt_lowestBoundHigh u, hv,
    congrArg Response.status hresponse, ?_⟩
  rw [hvhigh, counterStd_toStandardHigh, counterSrt_lowestBoundHigh]

/-- Settles O44: both words are the sortable word of the identifier's counter. -/
theorem boundAgreesWithTheCodec : Obligations.BoundAgreesWithTheCodec := by
  intro h l b s hv
  obtain ⟨t, ht, htstatus, hthigh, -⟩ := exec_toSortable_shows l s hv
  obtain ⟨u, hu, hustatus, huhigh, -⟩ := exec_lowestBound_shows b s (toNat_counter_lt (counterStd h))
  refine ⟨t, u, ht, hu, htstatus, hustatus, ?_⟩
  rw [hthigh, huhigh, toSortableHigh_eq_lowestBoundHigh]

end Sys2Proof.Machine

/-! ### O40, O42 and O43: the sorting law, the least identifier of a tick, and the range scan (R78, R79) -/

namespace Sys2Proof.Machine

/-- Sortable words compare as their counters: the version nibble is the same in both, and the counter's bits stand
around it in their order (R78). -/
theorem lt_iff_counterSrt_lt {h h' : Word} (hv : VersionOne h) (hv' : VersionOne h') :
    h < h' ↔ counterSrt h < counterSrt h' := by
  rw [BitVec.lt_def, BitVec.lt_def, toNat_of_versionOne hv, toNat_of_versionOne hv']
  omega

/-- Settles O40: TOSORTABLE makes a sortable word of the standard counter, and values compare word by word. -/
theorem sortableOrderIsTimeOrder : Obligations.SortableOrderIsTimeOrder := by
  constructor
  · intro s₁ s₂ l₁ l₂ hv₁ hv₂
    exact ⟨(lt_iff_counterSrt_lt hv₁ hv₂).2, fun hlt => (value128_lt_iff ⟨s₁, l₁⟩ ⟨s₂, l₂⟩).2 (.inl hlt),
      counterSrt_eq_iff hv₁ hv₂⟩
  · intro h₁ h₂ l₁ l₂ s hv₁ hv₂
    obtain ⟨t, ht, -, hthigh, htlow⟩ := exec_toSortable_shows l₁ s hv₁
    obtain ⟨u, hu, -, huhigh, hulow⟩ := exec_toSortable_shows l₂ s hv₂
    refine ⟨t, u, ht, hu, ?_⟩
    rw [hthigh, htlow, huhigh, hulow, value128_lt_iff,
      lt_iff_counterSrt_lt (versionOne_toSortableHigh h₁) (versionOne_toSortableHigh h₂),
      ← counterSrt_eq_iff (versionOne_toSortableHigh h₁) (versionOne_toSortableHigh h₂),
      counterSrt_toSortableHigh, counterSrt_toSortableHigh]
    exact ⟨.inl, fun heq => by simp [heq]⟩

/-- The variant bit alone is the least `low` word that has it (R79). -/
theorem variantLow_le {l : Word} (hl : l.getLsbD 63 = true) : variantLow.toNat ≤ l.toNat :=
  Nat.ge_two_pow_of_testBit hl

section bound
variable {u h l : Word} (hu : u.toNat < 2 ^ 60) (hv : VersionOne h)
include hu hv

/-- A version-1 word is below the bound's word when its tick is earlier. -/
theorem lt_lowestBoundHigh_iff : h < lowestBoundHigh u ↔ (counterSrt h).toNat < u.toNat := by
  rw [lt_iff_counterSrt_lt hv (versionOne_lowestBoundHigh u), counterSrt_lowestBoundHigh, BitVec.lt_def, toNat_tick hu]

/-- Every identifier of an earlier tick lies below the bound (R79). -/
theorem value128_lt_bound (hlt : (counterSrt h).toNat < u.toNat) :
    value128 ⟨h, l⟩ < value128 ⟨lowestBoundHigh u, variantLow⟩ :=
  (value128_lt_iff _ _).2 (.inl ((lt_lowestBoundHigh_iff hu hv).2 hlt))

/-- Of the identifiers with the variant bit, no others lie below the bound: `low` cannot break a tie downwards (R79). -/
theorem value128_lt_bound_iff (hl : l.getLsbD 63 = true) :
    value128 ⟨h, l⟩ < value128 ⟨lowestBoundHigh u, variantLow⟩ ↔ (counterSrt h).toNat < u.toNat := by
  have htie : ¬ (h = lowestBoundHigh u ∧ l < variantLow) := fun ⟨_, hlow⟩ =>
    (BitVec.lt_def.1 hlow).not_ge (variantLow_le hl)
  rw [value128_lt_iff, or_iff_left htie, lt_lowestBoundHigh_iff hu hv]

end bound

/-- Two identifiers with one `high` word have the same value when their `low` words are the same. -/
theorem value128_same_high_iff (h l l' : Word) : value128 ⟨h, l⟩ = value128 ⟨h, l'⟩ ↔ l' = l := by
  rw [value128, value128, Nat.add_left_cancel_iff, BitVec.toNat_inj, eq_comm]

/-- Settles O42: an identifier of the tick has the bound's `high` word, and the bound the least `low` word of the
variant. -/
theorem boundIsTheSmallestOfItsTick : Obligations.BoundIsTheSmallestOfItsTick := by
  intro u b s hu
  obtain ⟨t, ht, -, hhigh, hlow⟩ := exec_lowestBound_shows b s hu
  refine ⟨t, ht, ?_⟩
  rw [hhigh, hlow]
  refine ⟨fun h l hv hcounter hl => ⟨?_, ?_⟩, fun h l hv hlt => value128_lt_bound hu hv hlt⟩
  · rw [← not_lt, value128_lt_bound_iff hu hv hl, hcounter, toNat_tick hu]
    exact lt_irrefl _
  · rw [(eq_lowestBoundHigh_iff hv u).2 hcounter]
    exact value128_same_high_iff _ _ _

/-- Settles O43: the identifier's tick is not below the first bound's and is below the next one's. -/
theorem rangeScanFindsExactlyOneTick : Obligations.RangeScanFindsExactlyOneTick := by
  intro u b h l s hu hv hl
  have hnext : (u + 1#64).toNat = u.toNat + 1 := BitVec.toNat_add_of_lt (by rw [BitVec.toNat_one (by decide)]; omega)
  have hu' : u.toNat < 2 ^ 60 := by omega
  have hnext' : (u + 1#64).toNat < 2 ^ 60 := by omega
  obtain ⟨lower, hlower, -, hlowerHigh, hlowerLow⟩ := exec_lowestBound_shows b s hu'
  obtain ⟨upper, hupper, -, hupperHigh, hupperLow⟩ := exec_lowestBound_shows b s hnext'
  obtain ⟨key, hkey, -, hkeyHigh, hkeyLow⟩ := exec_toSortable_shows l s hv
  refine ⟨lower, upper, key, hlower, hupper, hkey, ?_⟩
  rw [hlowerHigh, hlowerLow, hupperHigh, hupperLow, hkeyHigh, hkeyLow, ← not_lt,
    value128_lt_bound_iff hu' (versionOne_toSortableHigh h) hl,
    value128_lt_bound_iff hnext' (versionOne_toSortableHigh h) hl, counterSrt_toSortableHigh, ← BitVec.toNat_inj,
    toNat_tick hu', hnext]
  omega

end Sys2Proof.Machine

/-! ### O46: either direction accepts, and can produce, every version-1 word -/

namespace Sys2Proof.Machine

/-- What a command leaves does not depend on what stood on the inputs (R13). -/
theorem exec_eq_of_any_state (i : Instr) (s t : State) : exec i s = exec i t := by
  rw [exec_eq_hold, exec_eq_hold, hold_eq]

/-- Settles O46: the guard passes every version-1 word, and each direction gives back what the other one made of it. -/
theorem layoutsCannotBeToldApart : Obligations.LayoutsCannotBeToldApart := by
  intro h l s hv
  obtain ⟨⟨t, back, ht, htstatus, htversion, htlow, hback, hbackResponse⟩,
    ⟨u, forth, hu, hustatus, huversion, hulow, hforth, hforthResponse⟩⟩ := codecRoundTrip h l s hv
  rw [htlow, exec_eq_of_any_state _ t s] at hback
  rw [hulow, exec_eq_of_any_state _ u s] at hforth
  exact ⟨⟨t, ht, htstatus⟩, ⟨u, hu, hustatus⟩, ⟨u.outHigh, forth, huversion, hforth, hforthResponse⟩,
    ⟨t.outHigh, back, htversion, hback, hbackResponse⟩⟩

end Sys2Proof.Machine

/-! ### O34: the codec bit by bit and digit by digit (R62) -/

namespace Sys2Proof.Machine

/-- Bit `i` of `h'` is the bit of `h` that the table names; the version nibble, which it does not name, is 1 (R62). -/
def CopiesBits (source : Nat → Option Nat) (h h' : Word) : Prop :=
  ∀ i < 64, h'.getLsbD i = (source i).elim (decide (i = 12)) h.getLsbD

/-- Digit `k` of `h'` is the digit of `h` that the table names; the version digit, which it does not name, is 1
(R62). -/
def CopiesDigits (source : Nat → Option Nat) (h h' : Word) : Prop :=
  ∀ k < 16, hexDigitAt h' k = (source k).elim requiredVersion (hexDigitAt h)

theorem copiesBits_toSortableHigh (h : Word) : CopiesBits toSortableSource h (toSortableHigh h) := by
  intro i hi
  rw [getLsbD_toSortableHigh h hi, toSortableSource]
  split_ifs <;> first | omega | rfl

theorem copiesBits_toStandardHigh (h : Word) : CopiesBits toStandardSource h (toStandardHigh h) := by
  intro i hi
  rw [getLsbD_toStandardHigh h hi, toStandardSource]
  split_ifs <;> first | omega | rfl

theorem getLsbD_hexDigitAt (h : Word) (k : Nat) {i : Nat} (hi : i < 4) :
    (hexDigitAt h k).getLsbD i = h.getLsbD (4 * k + i) := getLsbD_slice h hi

/-- A bit table that moves whole digits is a digit table. -/
theorem CopiesBits.copiesDigits {bits digits : Nat → Option Nat} {h h' : Word} (hcopies : CopiesBits bits h h')
    (hversion : ∀ k < 16, digits k = none → k = 3)
    (hdigits : ∀ k < 16, ∀ i < 4, bits (4 * k + i) = (digits k).map (4 * · + i)) : CopiesDigits digits h h' := by
  intro k hk
  apply BitVec.eq_of_getLsbD_eq
  intro i hi
  rw [getLsbD_hexDigitAt h' k hi, hcopies _ (by omega), hdigits k hk i hi]
  cases hdigit : digits k with
  | none =>
    obtain rfl := hversion k hk hdigit
    exact (decide_eq_decide.2 (by omega)).trans (getLsbD_requiredVersion i).symm
  | some j => exact (getLsbD_hexDigitAt h j hi).symm

theorem copiesDigits_toSortableHigh (h : Word) : CopiesDigits toSortableDigit h (toSortableHigh h) :=
  (copiesBits_toSortableHigh h).copiesDigits (by decide) (by decide)

theorem copiesDigits_toStandardHigh (h : Word) : CopiesDigits toStandardDigit h (toStandardHigh h) :=
  (copiesBits_toStandardHigh h).copiesDigits (by decide) (by decide)

/-- The two bit maps are inverse to each other off the version nibble. -/
theorem bit_maps_inverse : ∀ j < 64, j < 12 ∨ 16 ≤ j →
    toSortableTarget j < 64 ∧ toSortableSource (toSortableTarget j) = some j ∧
    toStandardSource j = some (toSortableTarget j) := by decide

/-- Settles O34: the bit tables say what the bits of the assembled words are, and they move whole digits. -/
theorem codecMovesBitsByTheTables : Obligations.CodecMovesBitsByTheTables := by
  refine ⟨fun a b s hv => ⟨?_, ?_⟩, bit_maps_inverse⟩
  · obtain ⟨t, ht, -, hhigh, -⟩ := exec_toSortable_shows b s hv
    refine ⟨t, ht, fun i hi => ?_, fun k hk => ?_⟩
    · rw [hhigh, copiesBits_toSortableHigh a i hi]
      cases toSortableSource i <;> rfl
    · rw [hhigh, copiesDigits_toSortableHigh a k hk]
      cases toSortableDigit k <;> rfl
  · obtain ⟨t, ht, -, hhigh, -⟩ := exec_toStandard_shows b s hv
    refine ⟨t, ht, fun i hi => ?_, fun k hk => ?_⟩
    · rw [hhigh, copiesBits_toStandardHigh a i hi]
      cases toStandardSource i <;> rfl
    · rw [hhigh, copiesDigits_toStandardHigh a k hk]
      cases toStandardDigit k <;> rfl

end Sys2Proof.Machine

/-! ### O35: the codec by masks and shifts (R64)

The masks of a layout's fields are disjoint and cover the word, so a word is the OR, and the sum, of what each of them
keeps of it; and a term of R64 is what one field's mask keeps of the result. -/

namespace Sys2Proof.Machine

/-- What each mask of a list keeps of a word. -/
def maskedParts (masks : List Word) (x : Word) : List Word := masks.map (x &&& ·)

theorem orOf_maskedParts (masks : List Word) (x : Word) : orOf (maskedParts masks x) = x &&& orOf masks := by
  induction masks with
  | nil => exact BitVec.and_zero.symm
  | cons m ms ih =>
    show x &&& m ||| orOf (maskedParts ms x) = x &&& (m ||| orOf ms)
    rw [ih, BitVec.and_or_distrib_left]

theorem and_orOf_eq_zero {m : Word} {masks : List Word} (hdisjoint : ∀ n ∈ masks, m &&& n = 0#64) :
    m &&& orOf masks = 0#64 := by
  induction masks with
  | nil => exact BitVec.and_zero
  | cons n ns ih =>
    obtain ⟨hn, hns⟩ := List.forall_mem_cons.1 hdisjoint
    show m &&& (n ||| orOf ns) = 0#64
    rw [BitVec.and_or_distrib_left, hn, ih hns, BitVec.or_zero]

/-- No carry arises where no bit stands in two masks. -/
theorem sumOf_maskedParts {masks : List Word} (hdisjoint : masks.Pairwise fun m n => m &&& n = 0#64) (x : Word) :
    sumOf (maskedParts masks x) = (orOf (maskedParts masks x)).toNat := by
  induction hdisjoint with
  | nil => rfl
  | @cons m ms hm _ ih =>
    have hzero : x &&& m &&& orOf (maskedParts ms x) = 0#64 :=
      calc x &&& m &&& orOf (maskedParts ms x) = x &&& x &&& (m &&& orOf ms) := by rw [orOf_maskedParts]; ac_rfl
        _ = 0#64 := by rw [and_orOf_eq_zero hm, BitVec.and_zero]
    show (x &&& m).toNat + sumOf (maskedParts ms x) = (x &&& m ||| orOf (maskedParts ms x)).toNat
    rw [ih, ← BitVec.add_eq_or_of_and_eq_zero _ _ hzero, BitVec.toNat_add_of_and_eq_zero hzero]

/-- A word is the OR, and the sum, of its parts by masks that are disjoint and cover it. -/
theorem eq_orOf_and_sumOf {masks terms : List Word} {x : Word} (hterms : terms = maskedParts masks x)
    (hdisjoint : masks.Pairwise fun m n => m &&& n = 0#64) (hcover : orOf masks = BitVec.allOnes 64) :
    x = orOf terms ∧ x.toNat = sumOf terms := by
  have hor : x = orOf terms := by rw [hterms, orOf_maskedParts, hcover, BitVec.and_allOnes]
  refine ⟨hor, ?_⟩
  rw [hterms, sumOf_maskedParts hdisjoint, ← hterms, ← hor]

section parts
variable {source : Nat → Option Nat} {h h' m n : Word} {k : Nat} (hcopies : CopiesBits source h h')
include hcopies

/-- A field that the table moves up is, in its place, what its new mask keeps of the copy. -/
theorem CopiesBits.shiftLeft_field (hmask : m <<< k = n)
    (hfield : ∀ i < 64, n.getLsbD i = true → k ≤ i ∧ source i = some (i - k)) : (h &&& m) <<< k = h' &&& n := by
  apply BitVec.eq_of_getLsbD_eq
  intro i hi
  rw [BitVec.shiftLeft_and_distrib, hmask, BitVec.getLsbD_and, BitVec.getLsbD_and, BitVec.getLsbD_shiftLeft]
  cases hbit : n.getLsbD i with
  | false => rw [Bool.and_false, Bool.and_false]
  | true =>
    obtain ⟨hk, hsource⟩ := hfield i hi hbit
    rw [hcopies i hi, hsource, Option.elim_some]
    simp [hi, hk]

/-- A field that the table moves down is, in its place, what its new mask keeps of the copy. -/
theorem CopiesBits.ushiftRight_field (hmask : m >>> k = n)
    (hfield : ∀ i < 64, n.getLsbD i = true → source i = some (k + i)) : (h &&& m) >>> k = h' &&& n := by
  apply BitVec.eq_of_getLsbD_eq
  intro i hi
  rw [BitVec.ushiftRight_and_distrib, hmask, BitVec.getLsbD_and, BitVec.getLsbD_and, BitVec.getLsbD_ushiftRight]
  cases hbit : n.getLsbD i with
  | false => rw [Bool.and_false, Bool.and_false]
  | true => rw [hcopies i hi, hfield i hi hbit, Option.elim_some]

/-- The version nibble of a copy, in its place, is the constant 1. -/
theorem CopiesBits.versionOneInPlace_eq (hfield : ∀ i < 64, versionMask.getLsbD i = true → source i = none) :
    versionOneInPlace = h' &&& versionMask := by
  have hone : ∀ i < 64, versionOneInPlace.getLsbD i = (decide (i = 12) && versionMask.getLsbD i) := by decide
  apply BitVec.eq_of_getLsbD_eq
  intro i hi
  rw [hone i hi, BitVec.getLsbD_and]
  cases hbit : versionMask.getLsbD i with
  | false => rw [Bool.and_false, Bool.and_false]
  | true => rw [hcopies i hi, hfield i hi hbit, Option.elim_none]

end parts

/-- The masks of the sortable layout's fields, from the most significant (R63). -/
def sortableMasks : List Word := [srtTimeHiMask, srtTimeMidMask, srtTimeLowHi20Mask, versionMask, srtTimeLowLo12Mask]

/-- The masks of the standard layout's fields, `time_low` in its two parts, from the most significant (R63). -/
def standardMasks : List Word := [stdTimeLowHi20Mask, stdTimeLowLo12Mask, stdTimeMidMask, versionMask, stdTimeHiMask]

theorem toSortableTerms_eq_maskedParts (a : Word) :
    toSortableTerms a = maskedParts sortableMasks (toSortableHigh a) := by
  have hcopies := copiesBits_toSortableHigh a
  rw [toSortableTerms, hcopies.shiftLeft_field (n := srtTimeHiMask) (by decide) (by decide),
    hcopies.shiftLeft_field (n := srtTimeMidMask) (by decide) (by decide),
    hcopies.ushiftRight_field (n := srtTimeLowHi20Mask) (by decide) (by decide),
    hcopies.versionOneInPlace_eq (by decide),
    hcopies.ushiftRight_field (n := srtTimeLowLo12Mask) (by decide) (by decide)]
  rfl

theorem toStandardTerms_eq_maskedParts (a : Word) :
    toStandardTerms a = maskedParts standardMasks (toStandardHigh a) := by
  have hcopies := copiesBits_toStandardHigh a
  rw [toStandardTerms, hcopies.shiftLeft_field (n := stdTimeLowHi20Mask) (by decide) (by decide),
    hcopies.shiftLeft_field (n := stdTimeLowLo12Mask) (by decide) (by decide),
    hcopies.ushiftRight_field (n := stdTimeMidMask) (by decide) (by decide),
    hcopies.versionOneInPlace_eq (by decide),
    hcopies.ushiftRight_field (n := stdTimeHiMask) (by decide) (by decide)]
  rfl

/-- Settles O35: the five terms are what the masks of the target layout keep of the result. -/
theorem codecByMasksAndShifts : Obligations.CodecByMasksAndShifts := by
  intro a b s hv
  constructor
  · obtain ⟨t, ht, -, hhigh, -⟩ := exec_toSortable_shows b s hv
    refine ⟨t, ht, ?_⟩
    rw [hhigh]
    exact eq_orOf_and_sumOf (toSortableTerms_eq_maskedParts a) (by decide) (by decide)
  · obtain ⟨t, ht, -, hhigh, -⟩ := exec_toStandard_shows b s hv
    refine ⟨t, ht, ?_⟩
    rw [hhigh]
    exact eq_orOf_and_sumOf (toStandardTerms_eq_maskedParts a) (by decide) (by decide)

end Sys2Proof.Machine

/-! ### O45: the 15-cycle of TOSORTABLE (R81)

Off the version digit TOSORTABLE moves the fifteen digits round one cycle. -/

namespace Sys2Proof.Machine

/-- Words with the same sixteen digits are the same word. -/
theorem eq_of_hexDigitAt_eq {h h' : Word} (heq : ∀ k < 16, hexDigitAt h k = hexDigitAt h' k) : h = h' := by
  apply BitVec.eq_of_getLsbD_eq
  intro i hi
  have hmod : i % 4 < 4 := Nat.mod_lt _ (by decide)
  have hbit := congrArg (fun d : Nibble => d.getLsbD (i % 4)) (heq (i / 4) (by omega))
  simpa only [getLsbD_hexDigitAt _ _ hmod, Nat.div_add_mod] using hbit

/-- The digit TOSORTABLE copies to place `k`, the version digit from its own place. -/
def digitSource (k : Nat) : Nat := (toSortableDigit k).getD 3

/-- On a version-1 word TOSORTABLE moves the digits and does nothing else: its constant is the digit already there. -/
theorem hexDigitAt_toSortableHigh {h : Word} (hv : VersionOne h) {k : Nat} (hk : k < 16) :
    hexDigitAt (toSortableHigh h) k = hexDigitAt h (digitSource k) := by
  rw [copiesDigits_toSortableHigh h k hk, digitSource]
  cases toSortableDigit k with
  | none => exact hv.symm
  | some j => rfl

theorem versionOne_iterate_toSortableHigh {h : Word} (hv : VersionOne h) (n : Nat) :
    VersionOne (toSortableHigh^[n] h) := by
  cases n with
  | zero => exact hv
  | succ n =>
    rw [Function.iterate_succ_apply']
    exact versionOne_toSortableHigh _

theorem digitSource_lt : ∀ k < 16, digitSource k < 16 := by decide

theorem hexDigitAt_iterate_toSortableHigh {h : Word} (hv : VersionOne h) (n : Nat) {k : Nat} (hk : k < 16) :
    hexDigitAt (toSortableHigh^[n] h) k = hexDigitAt h (digitSource^[n] k) := by
  induction n generalizing k with
  | zero => rfl
  | succ n ih =>
    rw [Function.iterate_succ_apply', hexDigitAt_toSortableHigh (versionOne_iterate_toSortableHigh hv n) hk,
      ih (digitSource_lt k hk), Function.iterate_succ_apply]

/-- Fifteen moves bring every digit back to its place. -/
theorem iterate_digitSource_fifteen : ∀ k < 16, digitSource^[15] k = k := by decide

/-- Every digit but the version digit comes from the lowest one in some number of moves. -/
theorem exists_iterate_digitSource_eq_zero : ∀ k < 16, k ≠ 3 → ∃ n < 15, digitSource^[n] k = 0 := by decide

theorem iterate_toSortableHigh_fifteen {h : Word} (hv : VersionOne h) : toSortableHigh^[15] h = h :=
  eq_of_hexDigitAt_eq fun k hk => by
    rw [hexDigitAt_iterate_toSortableHigh hv 15 hk, iterate_digitSource_fifteen k hk]

/-- Fourteen moves are one move backwards. -/
theorem iterate_toSortableHigh_fourteen {h : Word} (hv : VersionOne h) : toSortableHigh^[14] h = toStandardHigh h := by
  have hcycle := iterate_toSortableHigh_fifteen (versionOne_toStandardHigh h)
  rwa [Function.iterate_succ_apply, toSortableHigh_toStandardHigh hv] at hcycle

/-- The digits of a word of one repeated timestamp digit. -/
theorem hexDigitAt_repeatedDigit : ∀ (d : Nibble), ∀ k < 16,
    hexDigitAt (repeatedDigit d) k = if k = 3 then requiredVersion else d := by decide

section fixed
variable {h : Word} (hv : VersionOne h)
include hv

/-- TOSORTABLE fixes exactly the words of one repeated timestamp digit: the cycle carries the lowest digit
everywhere. -/
theorem toSortableHigh_eq_self_iff : toSortableHigh h = h ↔ ∃ d : Nibble, h = repeatedDigit d := by
  constructor
  · intro hfixed
    refine ⟨hexDigitAt h 0, eq_of_hexDigitAt_eq fun k hk => ?_⟩
    rw [hexDigitAt_repeatedDigit _ k hk]
    split_ifs with h3
    · subst h3
      exact hv
    · obtain ⟨n, -, hn⟩ := exists_iterate_digitSource_eq_zero k hk h3
      rw [← hn, ← hexDigitAt_iterate_toSortableHigh hv n hk, Function.iterate_fixed hfixed]
  · rintro ⟨d, rfl⟩
    revert d
    decide

/-- The two directions have the same fixed points, since each undoes the other. -/
theorem toStandardHigh_eq_self_iff : toStandardHigh h = h ↔ toSortableHigh h = h := by
  constructor
  · intro hfixed
    conv_lhs => rw [← hfixed]
    exact toSortableHigh_toStandardHigh hv
  · intro hfixed
    conv_lhs => rw [← hfixed]
    exact toStandardHigh_toSortableHigh hv

/-- A host that applies TOSORTABLE again and again never meets a failure, and carries `low` along. -/
theorem toSortableTimes_eq (n : Nat) (l : Word) : toSortableTimes n h l = .ok (toSortableHigh^[n] h) l := by
  induction n generalizing h with
  | zero => rfl
  | succ n ih =>
    rw [toSortableTimes, resultOf, toSortableResult_ok hv, Function.iterate_succ_apply]
    exact ih (versionOne_toSortableHigh h)

end fixed

/-- A result with its `low` word in place is known from its `high` word. -/
theorem ok_eq_ok_iff (h h' l : Word) : Result.ok h l = .ok h' l ↔ h = h' := by
  simp

/-- Settles O45: the digits move round a cycle of fifteen; the spec's example is not back after two moves. -/
theorem fifteenApplicationsReturnTheIdentifier : Obligations.FifteenApplicationsReturnTheIdentifier := by
  refine ⟨fun h l hv => ⟨?_, ?_, ?_, ?_⟩, 0x0d0b40f8e96511e8#64, by decide, fun l => ?_⟩
  · rw [toSortableTimes_eq hv, iterate_toSortableHigh_fifteen hv]
  · rw [toSortableTimes_eq hv, iterate_toSortableHigh_fourteen hv, resultOf, toStandardResult_ok hv]
  · rw [resultOf, toSortableResult_ok hv, ok_eq_ok_iff, toSortableHigh_eq_self_iff hv]
  · rw [resultOf, toStandardResult_ok hv, ok_eq_ok_iff, toStandardHigh_eq_self_iff hv, toSortableHigh_eq_self_iff hv]
  · rw [toSortableTimes_eq (by decide), ne_eq, ok_eq_ok_iff]
    decide

end Sys2Proof.Machine
